-- ==== Sys2Proof/Word.lean ====
section
/-! DEFINITION. The value types of the engine: bytes, nibbles, host addresses, Digits and permutation rows
(spec/00_scope.md R6, R8, R12; spec/20_memory.md R50). -/
namespace Sys2Proof

/-- A byte: the width of every host register and of every host transaction (R8, R52). -/
abbrev Byte := BitVec 8

/-- A nibble, 0..15: the width of a digit cell and of PUSH's operand (R8, R12, R73). -/
abbrev Nibble := BitVec 4

/-- A host register address, 0..7 (R50, R52). -/
abbrev Addr := BitVec 3

/-- A Digit, "an integer in [0, 9]" (R6, R12). The tables have this domain, so that an index 10..15
cannot be asked for (R60, U12). -/
abbrev Digit := Fin 10

/-- A row of the permutation table, a position mod 8 (R6, R60). -/
abbrev Row := Fin 8

end Sys2Proof
end

