-- ==== Sys2Proof/Syntax.lean ====
section
/-! DEFINITION. The syntax: the four commands of the opcode table, what a command word can decode to, the
host's actions, and the lines of a host script with the three pseudo-instructions
(spec/30_encoding.md R72 to R79, spec/00_scope.md R11). -/
namespace Sys2Proof

/-- The commands: one constructor for each row of spec/opcode_table.json (R72). -/
inductive Instr where
  /-- `PUSH v`: append the nibble `v` to the digit buffer (R112). Every nibble is a legal operand (R73). -/
  | push (v : Nibble)
  /-- `GEN`: compute the check digit of the buffered sequence (R120). -/
  | gen
  /-- `VAL`: decide whether the buffered sequence is valid (R130). -/
  | val
  /-- `CLR`: return the engine to its reset state (R111). -/
  | clr
deriving DecidableEq, Repr

/-- What a command word decodes to (R74): a command, or `ILLEGAL(w)` for the 237 reserved words (R75).
`ILLEGAL` has no row in the opcode table (R81), so it is not a constructor of `Instr` (DESIGN CHOICE, assumption 9). -/
inductive Command where
  | instr (i : Instr)
  | illegal (w : Byte)
deriving DecidableEq, Repr

/-- The three things the host may do (R11, R52, R180). -/
inductive HostAction where
  /-- `HostWrite(a, b)` (R53). -/
  | write (a : Addr) (b : Byte)
  /-- `HostRead(a)` (R54). -/
  | read (a : Addr)
  /-- `Reset` (R180). -/
  | reset
deriving DecidableEq, Repr

/-- One line of a host script as it is written (R77, R78), pseudo-instructions included (R79). Numbers are
as written, so a line can be ill-formed; Sys2Proof/WellFormed.lean says when. -/
inductive Line where
  | push (v : Nat)
  | gen
  | val
  | clr
  /-- `.byte 0xNN`: a raw command word. -/
  | byte (w : Nat)
  /-- `WR a, 0xNN`. -/
  | wr (a b : Nat)
  /-- `RD a`; `RD STATUS`, `RD RESULT` and `RD LEN` are `RD 1`, `RD 2` and `RD 3`. -/
  | rd (a : Nat)
  /-- `RESET`. -/
  | reset
  /-- `PUSHS d1 d2 ... dn`. -/
  | pushs (ds : List Nat)
  /-- `COMPUTE s`. -/
  | compute (ds : List Nat)
  /-- `ISVALID s`. -/
  | isvalid (ds : List Nat)
deriving DecidableEq, Repr

end Sys2Proof
end

