-- ==== Sys2Proof/Decode.lean ====
section
/-! DEFINITION. The command word, format `C`: the decoder, the encoder and the opcode map as a table
(spec/30_encoding.md R70 to R76, R80, R81). The decoder is total: a byte that encodes no command decodes
to `illegal` by name (R74, R75). It needs no state: a word's meaning never depends on what came before. -/
namespace Sys2Proof

/-- The opcode field, `opc = w[7:4]` (R71). -/
def opcField (w : Byte) : Nibble := w.extractLsb 7 4

/-- The operand field, `v = w[3:0]` (R71). -/
def operandField (w : Byte) : Nibble := w.extractLsb 3 0

/-- `decode : Byte -> Command`, total (R74). -/
def decode (w : Byte) : Command :=
  if opcField w = 0x1#4 then .instr (.push (operandField w))
  else if w = 0x20#8 then .instr .gen
  else if w = 0x30#8 then .instr .val
  else if w = 0x40#8 then .instr .clr
  else .illegal w

/-- `encode`: the word of a command (R72, R80). `encode(PUSH(v)) = 0x10 + v`. -/
def encode : Instr → Byte
  | .push v => 0x10#8 + v.zeroExtend 8
  | .gen => 0x20#8
  | .val => 0x30#8
  | .clr => 0x40#8

/-- One row of the opcode map (R72, R81): the mnemonic, and the match and mask of the 8-bit word. -/
structure OpcodeRow where
  mnemonic : String
  matchBits : Byte
  maskBits : Byte
deriving DecidableEq, Repr

/-- The opcode map of R72, the four rows of spec/opcode_table.json in its order. -/
def opcodeTable : List OpcodeRow :=
  [ { mnemonic := "PUSH", matchBits := 0x10#8, maskBits := 0xF0#8 },
    { mnemonic := "GEN", matchBits := 0x20#8, maskBits := 0xFF#8 },
    { mnemonic := "VAL", matchBits := 0x30#8, maskBits := 0xFF#8 },
    { mnemonic := "CLR", matchBits := 0x40#8, maskBits := 0xFF#8 } ]

/-- "A word `w` selects the row for which `w AND mask = match`" (R72). -/
def rowSelects (r : OpcodeRow) (w : Byte) : Bool := (w &&& r.maskBits) == r.matchBits

/-- The row of a command, by its mnemonic (R72, R77). -/
def rowOf : Instr → OpcodeRow
  | .push _ => { mnemonic := "PUSH", matchBits := 0x10#8, maskBits := 0xF0#8 }
  | .gen => { mnemonic := "GEN", matchBits := 0x20#8, maskBits := 0xFF#8 }
  | .val => { mnemonic := "VAL", matchBits := 0x30#8, maskBits := 0xFF#8 }
  | .clr => { mnemonic := "CLR", matchBits := 0x40#8, maskBits := 0xFF#8 }

/-- The byte the host's port carries for a table word of `nbits` bits: the bits above `nbits` are 0, and a
command is one byte, the word's lowest (R70; DESIGN CHOICE, assumption 10). -/
def tableByte (nbits w : Nat) : Byte := BitVec.ofNat 8 (w % 2 ^ nbits)

/-- The command the decoder reads from a table word, none for a reserved word. -/
def decodeTableWord (nbits w : Nat) : Option Instr :=
  match decode (tableByte nbits w) with
  | .instr i => some i
  | .illegal _ => none

end Sys2Proof
end

