-- ==== Sys2Proof/Config.lean ====
section
/-! DEFINITION. What an implementation of the engine fixes: the one open parameter `NMAX`
(spec/00_scope.md R7, D6, D27). No value of the engine is left free by the spec
(spec/93_implementation_defined.md, Part 1), so there is no free value here. The constant tables stand in
Sys2Proof/Machine/Tables.lean. -/
namespace Sys2Proof

/-- A legal buffer capacity, `1 <= NMAX <= 255` (R7). -/
abbrev Capacity := { n : Nat // 1 ≤ n ∧ n ≤ 255 }

/-- The configuration of one engine: fixed for the engine's life, no transaction changes it (R7).
It stands in `State`, so that a statement about every state is a statement about every `NMAX`
(DESIGN CHOICE, assumption 1). -/
structure Config where
  /-- `NMAX`, the number of digit cells in `BUF`. -/
  nmax : Capacity
deriving DecidableEq, Repr

/-- The spec's default capacity, 32 (R7). -/
def Config.default : Config := { nmax := ⟨32, by decide⟩ }

end Sys2Proof
end

