-- ==== Sys2Proof/Machine/State.lean ====
section
/-! DEFINITION. The state of the engine, the reasons a step could stop, and the state after Reset
(spec/10_state.md R20 to R37; the record is that of R37). -/
namespace Sys2Proof.Machine

/-- Which command the last GEN or VAL was: `STATUS.OP`, 0 = GEN, 1 = VAL (R23). -/
inductive Op where
  | gen
  | val
deriving DecidableEq, Repr

/-- The error conditions a GEN or VAL reports in `STATUS.ERR` (R25, R160). The fourth condition of R160, the
illegal command, has no code: it is the flag `STATUS.ILL`. -/
inductive ErrorCond where
  /-- Code 1: the sequence has zero length (R161). -/
  | emptyInput
  /-- Code 2: some live cell holds a nibble above 9 (R162). -/
  | invalidDigit
  /-- Code 3: a PUSH was dropped because the buffer was full (R163). -/
  | overflow
deriving DecidableEq, Repr

/-- `STATUS`, address 1 (R23). Its two reserved bits read as 0 and nothing writes them, so they are not
stored (DEDUCED, assumption 16); `statusByte` (Flags.lean) gives the byte a read returns. -/
structure Status where
  /-- Bit 0, `DONE`: a GEN or VAL has executed since the last Reset or CLR. -/
  done : Bool
  /-- Bit 1, `OP`: which of the two it was; `gen` (bit value 0) while `DONE = 0`. -/
  op : Op
  /-- Bits 3:2, `ERR`: the error of the last GEN or VAL; `none` is code 0 (R25). -/
  err : Option ErrorCond
  /-- Bit 4, `OVF`: sticky, a PUSH was dropped (R26). -/
  ovf : Bool
  /-- Bit 5, `ILL`: sticky, a reserved command word was written (R27). -/
  ill : Bool
deriving DecidableEq, Repr

/-- `RESULT`, address 2 (R28). Its three reserved bits read as 0 and are not stored. -/
structure Result where
  /-- Bit 4, `VALID`. -/
  valid : Bool
  /-- Bits 3:0, `DIGIT`. -/
  digit : Nibble
deriving DecidableEq, Repr

/-- The digit space `BUF`, held as the list of its live cells `0..LEN-1`, cell 0 first (R31, R37; U9 says to
model it so). This is the engine's only memory: it has no byte-addressed memory (R10, R50). The form is
canonical: a dead cell is not represented, so two buffers with the same live cells are equal data (DEDUCED,
assumption 7). -/
abbrev Memory := List Nibble

/-- The state of the engine, as plain data (R33, R37), with the two ends of the host port. -/
structure State where
  /-- The configuration, `NMAX` (R7). The model's own field: no transaction changes it. -/
  cfg : Config
  /-- `BUF[0..LEN-1]`; `LEN` is its length (R29, R31, R37). -/
  buf : Memory
  /-- `STATUS` (R23). -/
  status : Status
  /-- `RESULT` (R28). -/
  result : Result
  /-- The model's own field: the host actions not yet presented, the next one first (R11; DESIGN CHOICE, assumption 2). -/
  pending : List HostAction
  /-- The model's own field: the bytes HostReads have returned, oldest first (R11; DESIGN CHOICE, assumption 3). -/
  returned : List Byte
deriving DecidableEq, Repr

/-- Why the engine could stop with a fault: it cannot. "The engine accepts every transaction in every state"
(R52) and "cannot hang, deadlock or wait on anything" (R192); each of the four error conditions of R160 is
reported in `STATUS` and the engine goes on. So this type has no constructor, nothing raises a fault, and a
proof that a step did not fault is never needed (DEDUCED, assumption 8). -/
inductive Fault where
deriving DecidableEq, Repr

/-- Why the model could give an instruction no meaning. -/
inductive Refusal where
  /-- Raised by an arm of `exec` whose instruction has no meaning yet: safe, since nothing is then proved of
  it. No arm raises it: all four commands have their meaning. -/
  | notModelled (mnemonic : String)
deriving DecidableEq, Repr

/-- `STATUS = 0x00`: every field 0 (R36). -/
def Status.reset : Status := { done := false, op := .gen, err := none, ovf := false, ill := false }

/-- `RESULT = 0x0F`: `DIGIT = 0xF`, which is no Digit, and `VALID = 0`; the reset value (R36) and the value of
every failed or unavailable result (R28). -/
def Result.noResult : Result := { valid := false, digit := 0xF#4 }

/-- The state after Reset of an engine with configuration `c` (R36), before the host has presented anything. -/
def State.resetFor (c : Config) : State :=
  { cfg := c, buf := [], status := Status.reset, result := Result.noResult, pending := [], returned := [] }

/-- The state after Reset at the spec's default `NMAX = 32` (R7, R36). -/
def State.reset : State := State.resetFor Config.default

end Sys2Proof.Machine
end

