-- ==== Sys2Proof/Machine/Ops.lean ====
section
/-! DEFINITION. The named operations over the digit buffer and the registers, with error entry as one shared
operation (spec/60_exceptions.md R166). There is no return-from-error beside it: no trap state exists to
return from (R168); recovery is `clearEngine` or a further PUSH. -/
namespace Sys2Proof.Machine

/-- Read of digit cell `k`: the nibble of a live cell, nothing for a dead one (R31, R59). -/
def Memory.read? (m : Memory) (k : Nat) : Option Nibble := m[k]?

/-- Append mode of the digit space: write cell `LEN`, then `LEN <- LEN + 1` (R59, R112). -/
def Memory.append (m : Memory) (v : Nibble) : Memory := m ++ [v]

/-- The digit space with no live cell (R36, R111). -/
def Memory.empty : Memory := []

/-- The buffer fits its `NMAX` cells (R31, R34 item 1). -/
def Memory.wf (c : Config) (m : Memory) : Bool := decide (m.length ≤ c.nmax.val)

/-- `LEN`, the number of live cells (R29). -/
def State.len (s : State) : Nat := s.buf.length

/-- `LEN = NMAX` (R103 item 5, R112), an equality as the pseudocode has it, in states outside R34 too
(DESIGN CHOICE, assumption 11). -/
def State.full (s : State) : Bool := decide (s.len = s.cfg.nmax.val)

/-- `BUF[LEN] <- v; LEN <- LEN + 1` (R112). -/
def State.appendCell (s : State) (v : Nibble) : State := { s with buf := s.buf.append v }

/-- `STATUS.OVF <- 1` (R26, R112). -/
def State.markOverflow (s : State) : State := { s with status := { s.status with ovf := true } }

/-- `STATUS.ILL <- 1` (R27, R113). -/
def State.markIllegal (s : State) : State := { s with status := { s.status with ill := true } }

/-- A GEN or VAL that succeeds: `DONE <- 1`, `OP <- op`, `ERR <- 0` and the result, all together (R120, R130). -/
def State.complete (s : State) (op : Op) (r : Result) : State :=
  { s with status := { s.status with done := true, op := op, err := none }, result := r }

/-- `raise E` inside GEN or VAL: error entry (R166). Nothing is saved and control goes nowhere. -/
def State.raise (s : State) (e : ErrorCond) (op : Op) : State :=
  { s with status := { s.status with done := true, op := op, err := some e }, result := Result.noResult }

/-- Every register at its reset value and the buffer empty (R36, R111, R180). The configuration and the host's
side of the port are not the engine's registers and stay (DESIGN CHOICE, assumption 15). -/
def State.clearEngine (s : State) : State :=
  { s with buf := Memory.empty, status := Status.reset, result := Result.noResult }

end Sys2Proof.Machine
end

