-- ==== Sys2Proof/Machine/Buffer.lean ====
section
/-! DEFINITION. The buffer commands PUSH and CLR (spec/41_buffer_commands.md R111, R112). -/
namespace Sys2Proof.Machine

/-- `PUSH v` (R112): into a full buffer the nibble is dropped and `OVF` set; otherwise the raw nibble is
appended, whether or not it is a Digit. -/
def execPush (v : Nibble) (s : State) : Host.Outcome State Fault Refusal :=
  if s.full = true then .next s.markOverflow else .next (s.appendCell v)

/-- `CLR` (R111): `LEN <- 0`, `STATUS <- 0x00`, `RESULT <- 0x0F`. -/
def execClr (s : State) : Host.Outcome State Fault Refusal := .next s.clearEngine

end Sys2Proof.Machine
end

