-- ==== Sys2Proof/Machine/Operands.lean ====
section
/-! DEFINITION. The operands: PUSH's nibble is taken as it is (spec/30_encoding.md R73); GEN and VAL have one
implicit operand, the buffered sequence, checked before any table is read (spec/60_exceptions.md R160 to
R165). This is the boundary between nibbles and Digits (spec/90_conflicts.md C3). -/
namespace Sys2Proof.Machine

/-- The Digit a nibble stands for, none for the out-of-range nibbles 10..15 (R73, R162). -/
def digitOfNibble? (v : Nibble) : Option Digit :=
  if h : v.toNat < 10 then some ⟨v.toNat, h⟩ else none

/-- The nibble that carries a Digit. -/
def nibbleOfDigit (d : Digit) : Nibble := BitVec.ofNat 4 d.val

/-- The Digits of a sequence of nibbles, in the same order; none if some nibble is out of range. -/
def digitsOf? : Memory → Option (List Digit)
  | [] => some []
  | v :: vs =>
    match digitOfNibble? v, digitsOf? vs with
    | some d, some ds => some (d :: ds)
    | _, _ => none

/-- The implicit operand of GEN and VAL, `[BUF[0], ..., BUF[LEN-1]]`, most significant Digit first, or the one
error that is reported: `Overflow`, then `EmptyInput`, then `InvalidDigit` (R120, R130, R165). -/
def State.sequence (s : State) : Except ErrorCond (List Digit) :=
  if s.status.ovf = true then .error .overflow
  else if s.len = 0 then .error .emptyInput
  else
    match digitsOf? s.buf with
    | none => .error .invalidDigit
    | some ds => .ok ds

end Sys2Proof.Machine
end

