-- ==== Sys2Proof/Machine/Tables.lean ====
section
/-! DEFINITION. The constant tables `D`, `INV`, `P` and the digit-sequence multiplier
(spec/40_tables.md R90 to R103). The 190 entries are the spec's literals; the spec marks them as general
knowledge, not in its source (UNVERIFIED, assumption 6). They are ROM: constants, not state (spec/10_state.md R32). -/
namespace Sys2Proof.Machine

/-- The multiplication table, row `a`, column `b` (R90). -/
def dTable : Vector (Vector Digit 10) 10 :=
  #v[#v[0, 1, 2, 3, 4, 5, 6, 7, 8, 9],
     #v[1, 2, 3, 4, 0, 6, 7, 8, 9, 5],
     #v[2, 3, 4, 0, 1, 7, 8, 9, 5, 6],
     #v[3, 4, 0, 1, 2, 8, 9, 5, 6, 7],
     #v[4, 0, 1, 2, 3, 9, 5, 6, 7, 8],
     #v[5, 9, 8, 7, 6, 0, 4, 3, 2, 1],
     #v[6, 5, 9, 8, 7, 1, 0, 4, 3, 2],
     #v[7, 6, 5, 9, 8, 2, 1, 0, 4, 3],
     #v[8, 7, 6, 5, 9, 3, 2, 1, 0, 4],
     #v[9, 8, 7, 6, 5, 4, 3, 2, 1, 0]]

/-- The inverse table (R92). -/
def invTable : Vector Digit 10 := #v[0, 4, 3, 2, 1, 5, 6, 7, 8, 9]

/-- The permutation table, row `k`, column `v` (R94). -/
def pTable : Vector (Vector Digit 10) 8 :=
  #v[#v[0, 1, 2, 3, 4, 5, 6, 7, 8, 9],
     #v[1, 5, 7, 6, 2, 8, 3, 0, 9, 4],
     #v[5, 8, 0, 3, 7, 9, 6, 1, 4, 2],
     #v[8, 9, 1, 6, 0, 4, 3, 5, 2, 7],
     #v[9, 4, 5, 3, 1, 2, 6, 8, 7, 0],
     #v[4, 2, 8, 6, 5, 7, 3, 9, 0, 1],
     #v[2, 7, 9, 3, 8, 0, 6, 4, 1, 5],
     #v[7, 0, 4, 6, 9, 1, 3, 2, 5, 8]]

/-- Table product, `mul(a, b) = D[a][b]`: the accumulator selects the row (R97). -/
def mul (a b : Digit) : Digit := (dTable[a])[b]

/-- `INV[a]` (R92). -/
def inv (a : Digit) : Digit := invTable[a]

/-- Permutation lookup, `perm(k, v) = P[k][v]` (R98). -/
def perm (k : Row) (v : Digit) : Digit := (pTable[k])[v]

/-- Fold step, `fstep(c, k, v) = D[c][P[k][v]]`: two ROM reads in series (R99). -/
def fstep (c : Digit) (k : Row) (v : Digit) : Digit := mul c (perm k v)

/-- The row at reversed index `i` for offset `o`: `(i + o) mod 8`, over naturals (R103 item 2). -/
def rowAt (i o : Nat) : Row := Fin.ofNat 8 (i + o)

/-- The two working registers, which exist only inside one GEN or VAL (R20): `ACC`, always a Digit, and `IDX`,
the index into the reversed sequence. They are no part of `State` (R33, R35, U10; DEDUCED, assumption 5). -/
structure Work where
  acc : Digit
  idx : Nat
deriving DecidableEq, Repr

/-- `ACC <- 0`, `IDX <- 0` (R20, R120, R130). -/
def workStart : Work := { acc := 0, idx := 0 }

/-- One pass of the loop: `ACC <- D[ACC][P[(IDX + o) mod 8][v]]`, then `IDX <- IDX + 1` (R120, R130). -/
def workStep (o : Nat) (w : Work) (v : Digit) : Work :=
  { acc := fstep w.acc (rowAt w.idx o) v, idx := w.idx + 1 }

/-- The whole loop over the reversed sequence, least significant Digit first (R59, R100). -/
def workLoop (o : Nat) (s : List Digit) : Work := s.reverse.foldl (workStep o) workStart

/-- `fold(s, o)` (R100). -/
def fold (s : List Digit) (o : Nat) : Digit := (workLoop o s).acc

/-- `gen_digit(s) = INV[fold(s, 1)]`, the source's `compute_check_digit` (R101): the schedule is
`(i + 1) mod 8` (R121). -/
def genDigit (s : List Digit) : Digit := inv (fold s 1)

/-- `is_valid_seq(t) = (fold(t, 0) = 0)`, the source's `is_valid` (R102): the schedule is `i mod 8` (R131). -/
def isValidSeq (t : List Digit) : Bool := decide (fold t 0 = 0)

end Sys2Proof.Machine
end

