-- ==== Sys2Proof/Machine/Generate.lean ====
section
/-! DEFINITION. GEN, the check-digit generator (spec/42_generate.md R120 to R123). -/
namespace Sys2Proof.Machine

/-- The result of a successful GEN on the sequence `ds`: the check digit, `VALID = 0` (R120). -/
def genResult (ds : List Digit) : Result := { valid := false, digit := nibbleOfDigit (genDigit ds) }

/-- `GEN` (R120). The buffer, `LEN`, `OVF` and `ILL` stay as they are (R122). -/
def execGen (s : State) : Host.Outcome State Fault Refusal :=
  match s.sequence with
  | .error e => .next (s.raise e .gen)
  | .ok ds => .next (s.complete .gen (genResult ds))

end Sys2Proof.Machine
end

