-- ==== Sys2Proof/Machine/Validate.lean ====
section
/-! DEFINITION. VAL, the validator (spec/43_validate.md R130 to R133). -/
namespace Sys2Proof.Machine

/-- The result of a successful VAL on the sequence `ds`: the verdict, `DIGIT = 0xF`; the syndrome is not made
visible (R130). -/
def valResult (ds : List Digit) : Result := { valid := isValidSeq ds, digit := 0xF#4 }

/-- `VAL` (R130). The buffer, `LEN`, `OVF` and `ILL` stay as they are (R132). -/
def execVal (s : State) : Host.Outcome State Fault Refusal :=
  match s.sequence with
  | .error e => .next (s.raise e .val)
  | .ok ds => .next (s.complete .val (valResult ds))

end Sys2Proof.Machine
end

