-- ==== Sys2Proof/Machine/Dispatch.lean ====
section
/-! DEFINITION. `exec`: one arm for each command of the opcode table (spec/30_encoding.md R72, R74). -/
namespace Sys2Proof.Machine

def exec (i : Instr) (s : State) : Host.Outcome State Fault Refusal :=
  match i with
  | .push v => Sys2Proof.Machine.execPush v s
  | .gen => Sys2Proof.Machine.execGen s
  | .val => Sys2Proof.Machine.execVal s
  | .clr => Sys2Proof.Machine.execClr s

end Sys2Proof.Machine
end

