-- ==== Sys2Proof/Machine/Flags.lean ====
section
/-! DEFINITION. The flag and result fields as the host reads them: the codes and bits of `STATUS` and `RESULT`
and the bytes they make up (spec/10_state.md R23, R25, R28; spec/20_memory.md R54). -/
namespace Sys2Proof.Machine

/-- The bit of `STATUS.OP`: 0 = GEN, 1 = VAL (R23). -/
def opBit : Op → Bool
  | .gen => false
  | .val => true

/-- The two-bit code of `STATUS.ERR` (R25, R160). -/
def errCode : Option ErrorCond → BitVec 2
  | none => 0#2
  | some .emptyInput => 1#2
  | some .invalidDigit => 2#2
  | some .overflow => 3#2

/-- `{0b00, ILL, OVF, ERR[1:0], OP, DONE}` (R23, R54). -/
def statusByte (t : Status) : Byte :=
  0#2 ++ BitVec.ofBool t.ill ++ BitVec.ofBool t.ovf ++ errCode t.err ++ BitVec.ofBool (opBit t.op)
    ++ BitVec.ofBool t.done

/-- `{0b000, VALID, DIGIT}` (R28, R54). -/
def resultByte (r : Result) : Byte := 0#3 ++ BitVec.ofBool r.valid ++ r.digit

end Sys2Proof.Machine
end

