-- ==== Sys2Proof/Machine/Illegal.lean ====
section
/-! DEFINITION. A reserved command word at `CMD` (spec/41_buffer_commands.md R113, spec/30_encoding.md R75). -/
namespace Sys2Proof.Machine

/-- `ILLEGAL(w)` (R113): `STATUS.ILL <- 1` and nothing else; the byte itself is not recorded. -/
def execIllegal (_w : Byte) (s : State) : Host.Outcome State Fault Refusal := .next s.markIllegal

end Sys2Proof.Machine
end

