-- ==== Sys2Proof/Machine/Port.lean ====
section
/-! DEFINITION. The host port: what each host action does and what it returns (spec/20_memory.md R50 to R58,
spec/70_reset_and_hazards.md R180). -/
namespace Sys2Proof.Machine

/-- The register map (R51): `CMD`. -/
def addrCmd : Addr := 0#3

/-- The register map (R51): `STATUS`. -/
def addrStatus : Addr := 1#3

/-- The register map (R51): `RESULT`. -/
def addrResult : Addr := 2#3

/-- The register map (R51): `LEN`. -/
def addrLen : Addr := 3#3

/-- The byte `HostRead(a)` returns (R54). `CMD` and the reserved addresses 4..7 read as 0x00 (R22, R30). -/
def hostReadByte (a : Addr) (s : State) : Byte :=
  if a = addrStatus then statusByte s.status
  else if a = addrResult then resultByte s.result
  else if a = addrLen then BitVec.ofNat 8 s.len
  else 0x00#8

/-- `execute(decode(w))` (R53, R74). -/
def executeWord (w : Byte) (s : State) : Host.Outcome State Fault Refusal :=
  match decode w with
  | .instr i => exec i s
  | .illegal b => execIllegal b s

/-- `HostWrite(a, b)`: at address 0 it executes a command, elsewhere it is ignored (R53). -/
def hostWrite (a : Addr) (b : Byte) (s : State) : Host.Outcome State Fault Refusal :=
  if a = addrCmd then executeWord b s else .next s

/-- `Reset`: the reset state, in any state (R180). -/
def hostReset (s : State) : State := s.clearEngine

/-- The byte a host action returns, if it returns one (R11, R53, R54, R180). -/
def respond (act : HostAction) (s : State) : Option Byte :=
  match act with
  | .write _ _ => none
  | .read a => some (hostReadByte a s)
  | .reset => none

/-- One host transaction, whole (R57): its effect on the engine, and the byte it returns noted. -/
def transact (act : HostAction) (s : State) : Host.Outcome State Fault Refusal :=
  match act with
  | .write a b => hostWrite a b s
  | .read a => .next { s with returned := s.returned ++ [hostReadByte a s] }
  | .reset => .next (hostReset s)

/-- The host presents its next action; the rest stay pending, in order (R61). -/
def takeAction? (s : State) : Option (HostAction × State) :=
  match s.pending with
  | [] => none
  | act :: rest => some (act, { s with pending := rest })

/-- The host presents the action `act` before all those pending. -/
def presentFirst (act : HostAction) (s : State) : State := { s with pending := act :: s.pending }

end Sys2Proof.Machine
end

