-- ==== Sys2Proof/Machine/Step.lean ====
section
/-! DEFINITION. One step of the machine: the next host action, whole (spec/00_scope.md R11, spec/20_memory.md
R57, R61). -/
namespace Sys2Proof.Machine

/-- One step. "The engine takes a step only when the host presents a transaction; it never acts on its own"
(R11): with nothing pending the state stays as it is (DEDUCED, assumption 4). -/
def step (s : State) : Host.Outcome State Fault Refusal :=
  match takeAction? s with
  | none => .next s
  | some (act, t) => transact act t

/-- `s` with the command word `w` as the host's very next action, a `HostWrite(0, w)`: a command exists only as
the data byte of such a write and is executed as it arrives (R63; DESIGN CHOICE, assumption 2). -/
def State.withFetchWord (s : State) (nbits w : Nat) : State :=
  presentFirst (.write addrCmd (tableByte nbits w)) s

end Sys2Proof.Machine
end

