-- ==== Sys2Proof/WellFormed.lean ====
section
/-! DEFINITION. Which terms of the syntax are well formed. A command carries at most one nibble and every
nibble is legal (spec/30_encoding.md R73), so every `Instr` is well formed by its type; a script line is
written with plain numbers, and those are checked (R77, R78). -/
namespace Sys2Proof

/-- A number that fits a digit operand: `PUSH v` has `v` in 0..15 (R77). -/
def fitsNibble (v : Nat) : Bool := decide (v ≤ 15)

/-- A number that fits a byte, `0xNN` (R77, R78). -/
def fitsByte (b : Nat) : Bool := decide (b ≤ 255)

/-- A number that is a host address, 0..7 (R51, R78). -/
def fitsAddr (a : Nat) : Bool := decide (a ≤ 7)

/-- Every command is well formed: its only operand is a nibble and PUSH accepts every nibble (R73). There is
no check to fail here; it is said per constructor so that a new command cannot slip past. -/
def Instr.WellFormed : Instr → Bool
  | .push _ => true
  | .gen => true
  | .val => true
  | .clr => true

/-- A script line is well formed when each number on it fits its place (R77 to R79). -/
def Line.WellFormed : Line → Bool
  | .push v => fitsNibble v
  | .gen => true
  | .val => true
  | .clr => true
  | .byte w => fitsByte w
  | .wr a b => fitsAddr a && fitsByte b
  | .rd a => fitsAddr a
  | .reset => true
  | .pushs ds => ds.all fitsNibble
  | .compute ds => ds.all fitsNibble
  | .isvalid ds => ds.all fitsNibble

end Sys2Proof
end

