-- ==== Sys2Proof/Machine/Script.lean ====
section
/-! DEFINITION. The host-script notation: assembler text, the host actions of a script line, and the expansions
of the pseudo-instructions (spec/30_encoding.md R77 to R79). -/
namespace Sys2Proof.Machine

/-- A command as the host gives it: `HostWrite(0, w)` with `w` its encoding (R78). -/
def commandAction (i : Instr) : HostAction := .write addrCmd (encode i)

/-- `PUSHS d1 ... dn`: one PUSH each, first written digit first (R79). -/
def pushesActions (ds : List Nibble) : List HostAction := ds.map fun v => commandAction (.push v)

/-- `COMPUTE s` = `CLR; PUSHS s; GEN; RD STATUS; RD RESULT` (R79). -/
def computeActions (ds : List Nibble) : List HostAction :=
  [commandAction .clr] ++ pushesActions ds ++ [commandAction .gen, .read addrStatus, .read addrResult]

/-- `ISVALID s` = `CLR; PUSHS s; VAL; RD STATUS; RD RESULT` (R79). -/
def isvalidActions (ds : List Nibble) : List HostAction :=
  [commandAction .clr] ++ pushesActions ds ++ [commandAction .val, .read addrStatus, .read addrResult]

/-- The digits of a script line as nibbles. -/
def nibblesOf (ds : List Nat) : List Nibble := ds.map (BitVec.ofNat 4)

/-- The host actions of a well-formed script line (R78, R79); none for an ill-formed one (DESIGN CHOICE,
assumption 17). -/
def assemble? (l : Line) : Option (List HostAction) :=
  if l.WellFormed = true then
    some (match l with
      | .push v => [commandAction (.push (BitVec.ofNat 4 v))]
      | .gen => [commandAction .gen]
      | .val => [commandAction .val]
      | .clr => [commandAction .clr]
      | .byte w => [.write addrCmd (BitVec.ofNat 8 w)]
      | .wr a b => [.write (BitVec.ofNat 3 a) (BitVec.ofNat 8 b)]
      | .rd a => [.read (BitVec.ofNat 3 a)]
      | .reset => [.reset]
      | .pushs ds => pushesActions (nibblesOf ds)
      | .compute ds => computeActions (nibblesOf ds)
      | .isvalid ds => isvalidActions (nibblesOf ds))
  else none

/-- A hexadecimal digit, upper case. -/
def hexDigit (v : Nibble) : String :=
  (["0", "1", "2", "3", "4", "5", "6", "7", "8", "9", "A", "B", "C", "D", "E", "F"][v.toNat]?).getD "0"

/-- The assembler text of a command word: `PUSH v` with `v` in decimal, `GEN`, `VAL`, `CLR`, and `.byte 0xNN`
for a reserved word (R77). -/
def asmText : Command → String
  | .instr (.push v) => "PUSH " ++ toString v.toNat
  | .instr .gen => "GEN"
  | .instr .val => "VAL"
  | .instr .clr => "CLR"
  | .illegal w => ".byte 0x" ++ hexDigit (opcField w) ++ hexDigit (operandField w)

end Sys2Proof.Machine
end

