-- ==== Sys2Proof/Safety.lean ====
section
/-! DEFINITION. The terms the claims are stated in: the invariants of the state, reachable states, runs that go
through, what the host's next action is, and the fold of spec/42_generate.md R120 written out cell by cell. -/
namespace Sys2Proof.Machine

/-- The eight invariants of R34 (spec/10_state.md), in its order. -/
abbrev State.Inv (s : State) : Prop :=
  s.len ≤ s.cfg.nmax.val ∧
  (s.status.ovf = true → s.len = s.cfg.nmax.val) ∧
  ((statusByte s.status).extractLsb 7 6 = 0#2 ∧ (resultByte s.result).extractLsb 7 5 = 0#3) ∧
  (s.status.done = false → s.status.op = .gen ∧ s.status.err = none ∧ resultByte s.result = 0x0F#8) ∧
  (s.status.err ≠ none → resultByte s.result = 0x0F#8) ∧
  (s.status.done = true → s.status.err = none → s.status.op = .gen → (resultByte s.result).toNat ≤ 9) ∧
  (s.status.done = true → s.status.err = none → s.status.op = .val →
    resultByte s.result = 0x0F#8 ∨ resultByte s.result = 0x1F#8) ∧
  (s.status.err = some .overflow → s.status.ovf = true)

/-- A run of `k` steps of the machine, stopping at the first fault or refusal (`Host.Core.run`), at this machine's
own types. -/
def runSteps (k : Nat) (s : State) : Host.Outcome State Fault Refusal := Sys2Proof.core.run k s

/-- An engine of configuration `c` that has just been reset, the host about to present `acts` (R11, R181). -/
def State.freshRun (c : Config) (acts : List HostAction) : State :=
  { State.resetFor c with pending := acts }

/-- A state that some run of host actions from Reset reaches, for some capacity (R34). -/
def State.Reachable (s : State) : Prop :=
  ∃ (c : Config) (acts : List HostAction) (k : Nat), runSteps k (State.freshRun c acts) = .next s

/-- The command the host's next action writes to `CMD`, if it is such a write (R53). -/
def State.nextCommand? (s : State) : Option Command :=
  match s.pending with
  | .write a b :: _ => if a = addrCmd then some (decode b) else none
  | _ => none

/-- The host's next action is a CLR or a Reset, the two that clear the engine (R111, R180). -/
def State.nextClears (s : State) : Prop :=
  s.nextCommand? = some (.instr .clr) ∨ ∃ rest, s.pending = .reset :: rest

/-- No CLR and no Reset is among the next `k` actions of the run from `s`. -/
def noClearWithin (k : Nat) (s : State) : Prop := ∀ (j : Nat) (u : State), j < k → runSteps j s = .next u → ¬ u.nextClears

/-- Some live cell holds a nibble above 9 (R162). -/
def State.holdsBadNibble (s : State) : Prop := ∃ k v, s.buf.read? k = some v ∧ 9 < v.toNat

/-- The Digit in cell `k`, for a live cell that holds one. -/
def cellDigit (m : Memory) (k : Nat) : Digit := Fin.ofNat 10 ((m.read? k).getD 0#4).toNat

/-- The loop of R120 and R130 as it is written: `for IDX in 0 .. LEN-1`, `v <- BUF[LEN - 1 - IDX]`,
`ACC <- D[ACC][P[(IDX + o) mod 8][v]]`, from `ACC = 0`. -/
def indexedFold (m : Memory) (o : Nat) : Digit :=
  (List.range m.length).foldl
    (fun acc i => fstep acc (rowAt i o) (cellDigit m (m.length - 1 - i))) 0

/-- The factors `x_i = P[(i + o) mod 8][s[n-1-i]]` of R100, `x_0` first, for the sequence read from its least
significant Digit. -/
def factorsFrom (o : Nat) : List Digit → List Digit
  | [] => []
  | v :: vs => perm (rowAt 0 o) v :: factorsFrom (o + 1) vs

/-- The fold with a 3-bit row counter that starts at `o` and increments modulo 8 (R103 item 2). -/
def counterFold (s : List Digit) (o : Nat) : Digit :=
  (s.reverse.foldl (fun (w : Digit × BitVec 3) v => (fstep w.1 w.2.toFin v, w.2 + 1#3)) (0, BitVec.ofNat 3 o)).1

/-- The outcome table of `COMPUTE s` (R140): what the two bytes read are, for a sequence of nibbles and a
capacity. -/
def ComputeReply (c : Config) (ds : List Nibble) (st rs : Byte) : Prop :=
  (c.nmax.val < ds.length → st = 0x1D#8 ∧ rs = 0x0F#8) ∧
  (ds = [] → st = 0x05#8 ∧ rs = 0x0F#8) ∧
  (ds.length ≤ c.nmax.val → (∃ v ∈ ds, 9 < v.toNat) → st = 0x09#8 ∧ rs = 0x0F#8) ∧
  (ds.length ≤ c.nmax.val → ∀ es : List Digit, es ≠ [] → ds = es.map nibbleOfDigit →
    st = 0x01#8 ∧ rs = BitVec.ofNat 8 (genDigit es).val)

/-- The outcome table of `ISVALID t` (R141). -/
def IsvalidReply (c : Config) (ds : List Nibble) (st rs : Byte) : Prop :=
  (c.nmax.val < ds.length → st = 0x1F#8 ∧ rs = 0x0F#8) ∧
  (ds = [] → st = 0x07#8 ∧ rs = 0x0F#8) ∧
  (ds.length ≤ c.nmax.val → (∃ v ∈ ds, 9 < v.toNat) → st = 0x0B#8 ∧ rs = 0x0F#8) ∧
  (ds.length ≤ c.nmax.val → ∀ es : List Digit, es ≠ [] → ds = es.map nibbleOfDigit →
    st = 0x03#8 ∧ rs = if isValidSeq es = true then 0x1F#8 else 0x0F#8)

end Sys2Proof.Machine
end

