-- ==== Sys2Proof/Certificates/Slice0/Obligations.lean ====
section
/-! DEFINITION. The statements for the provers. Each docstring names the rule of spec/ it formalises. -/

open Sys2Proof Sys2Proof.Machine

/-! ### Encoding -/

/-- R80: decoding an encoded command gives it back, the four encodings are the listed bytes, and every byte is
reserved or is the encoding of what it decodes to. -/
def Obligations.EncodeDecodeRoundTrip : Prop :=
  (∀ i : Instr, decode (encode i) = .instr i) ∧
  (∀ v : Nibble, (encode (.push v)).toNat = 0x10 + v.toNat) ∧
  encode .gen = 0x20#8 ∧ encode .val = 0x30#8 ∧ encode .clr = 0x40#8 ∧
  (∀ w : Byte, decode w = .illegal w ∨ ∃ i, decode w = .instr i ∧ encode i = w)

/-- R74, with the fields of R71 read as numbers: `opc = w / 16`, `v = w mod 16`. -/
def Obligations.DecodeFollowsItsRule : Prop :=
  ∀ w : Byte,
    (w.toNat / 16 = 1 → decode w = .instr (.push (BitVec.ofNat 4 (w.toNat % 16)))) ∧
    (w.toNat = 0x20 → decode w = .instr .gen) ∧
    (w.toNat = 0x30 → decode w = .instr .val) ∧
    (w.toNat = 0x40 → decode w = .instr .clr) ∧
    (w.toNat / 16 ≠ 1 → w.toNat ≠ 0x20 → w.toNat ≠ 0x30 → w.toNat ≠ 0x40 → decode w = .illegal w)

/-- R72: a word selects the row with `w AND mask = match`, that row is the decoded command's, at most one row
matches, and 19 of the 256 words select one. -/
def Obligations.OpcodeMapSelectsTheDecodedRow : Prop :=
  opcodeTable.map (fun r => (r.mnemonic, r.matchBits, r.maskBits)) =
    [("PUSH", 0x10#8, 0xF0#8), ("GEN", 0x20#8, 0xFF#8), ("VAL", 0x30#8, 0xFF#8), ("CLR", 0x40#8, 0xFF#8)] ∧
  (∀ w : Byte, (opcodeTable.filter fun r => rowSelects r w).length ≤ 1) ∧
  (∀ w : Byte, ∀ i, decode w = .instr i → opcodeTable.filter (fun r => rowSelects r w) = [rowOf i]) ∧
  (∀ w : Byte, decode w = .illegal w → opcodeTable.filter (fun r => rowSelects r w) = []) ∧
  ((List.range 256).filter fun n => opcodeTable.any fun r => rowSelects r (BitVec.ofNat 8 n)).length = 19

/-- Words written out from the encodings of spec/30_encoding.md, as spec/95_test_vectors.md 3.6 lists them. -/
def Obligations.ListedWordsDecodeAsListed : Prop :=
  decode 0b00010000#8 = .instr (.push 0#4) ∧ decode 0b00011001#8 = .instr (.push 9#4) ∧
  decode 0b00011111#8 = .instr (.push 15#4) ∧ decode 0b00100000#8 = .instr .gen ∧
  decode 0b00110000#8 = .instr .val ∧ decode 0b01000000#8 = .instr .clr ∧
  decode 0b00000000#8 = .illegal 0x00#8 ∧ decode 0b00100001#8 = .illegal 0x21#8 ∧
  decode 0b11111111#8 = .illegal 0xFF#8

/-- R75: the reserved words, by their ranges; all 237 decode to `ILLEGAL` and behave alike, setting `ILL` and
changing no other state. -/
def Obligations.ReservedWordsOnlySetIll : Prop :=
  (∀ w : Byte, decode w = .illegal w ↔
    w.toNat ≤ 0x0F ∨ (0x21 ≤ w.toNat ∧ w.toNat ≤ 0x2F) ∨ (0x31 ≤ w.toNat ∧ w.toNat ≤ 0x3F) ∨
    (0x41 ≤ w.toNat ∧ w.toNat ≤ 0x4F) ∨ 0x50 ≤ w.toNat) ∧
  ((List.range 256).filter fun n => decode (BitVec.ofNat 8 n) = .illegal (BitVec.ofNat 8 n)).length = 237 ∧
  (∀ (w : Byte) (s : State), decode w = .illegal w →
    hostWrite addrCmd w s = .next { s with status := { s.status with ill := true } })

/-- R78, R79: the host actions of each kind of script line and the expansions of the three pseudo-instructions, as
the bytes written and the addresses read. -/
def Obligations.ScriptLinesExpandAsStated : Prop :=
  (∀ v : Nat, v ≤ 15 → assemble? (.push v) = some [.write 0#3 (BitVec.ofNat 8 (0x10 + v))]) ∧
  assemble? .gen = some [.write 0#3 0x20#8] ∧ assemble? .val = some [.write 0#3 0x30#8] ∧
  assemble? .clr = some [.write 0#3 0x40#8] ∧ assemble? .reset = some [.reset] ∧
  (∀ w : Byte, assemble? (.byte w.toNat) = some [.write 0#3 w]) ∧
  (∀ (a : Addr) (b : Byte), assemble? (.wr a.toNat b.toNat) = some [.write a b]) ∧
  (∀ a : Addr, assemble? (.rd a.toNat) = some [.read a]) ∧
  (∀ ds : List Nat, (∀ v ∈ ds, v ≤ 15) →
    assemble? (.pushs ds) = some (ds.map fun v => .write 0#3 (BitVec.ofNat 8 (0x10 + v))) ∧
    assemble? (.compute ds) = some (.write 0#3 0x40#8 ::
      ds.map (fun v => .write 0#3 (BitVec.ofNat 8 (0x10 + v))) ++ [.write 0#3 0x20#8, .read 1#3, .read 2#3]) ∧
    assemble? (.isvalid ds) = some (.write 0#3 0x40#8 ::
      ds.map (fun v => .write 0#3 (BitVec.ofNat 8 (0x10 + v))) ++ [.write 0#3 0x30#8, .read 1#3, .read 2#3]))

/-! ### The step and the host port -/

/-- A step runs the decoded command: when the host's next action writes to `CMD` a byte that decodes to a
command, the step takes that action off and is `exec` of the command. -/
def Obligations.StepRunsTheDecodedCommand : Prop :=
  ∀ (s : State) (w : Byte) (i : Instr) (rest : List HostAction),
    s.pending = .write addrCmd w :: rest → decode w = .instr i → i.WellFormed = true →
    step s = exec i { s with pending := rest }

/-- R53: a write to address 0 executes what it decodes to, any other write changes nothing, and no write returns
a byte. -/
def Obligations.HostWriteFollowsItsRule : Prop :=
  ∀ (s : State) (a : Addr) (b : Byte) (rest : List HostAction), s.pending = .write a b :: rest →
    (a = 0#3 → ∀ i, decode b = .instr i → step s = exec i { s with pending := rest }) ∧
    (a = 0#3 → ∀ w, decode b = .illegal w →
      step s = .next { s with pending := rest, status := { s.status with ill := true } }) ∧
    (a ≠ 0#3 → step s = .next { s with pending := rest }) ∧
    (∀ t, step s = .next t → t.returned = s.returned)

/-- R54: the byte a read returns at every address, bit by bit, and that a read changes nothing else. -/
def Obligations.HostReadFollowsItsRule : Prop :=
  ∀ (s : State) (a : Addr) (rest : List HostAction), s.pending = .read a :: rest →
    ∃ b : Byte, step s = .next { s with pending := rest, returned := s.returned ++ [b] } ∧
      (a = 0#3 → b = 0x00#8) ∧
      (a = 1#3 → b.extractLsb 7 6 = 0#2 ∧ b.getLsbD 5 = s.status.ill ∧ b.getLsbD 4 = s.status.ovf ∧
        b.extractLsb 3 2 = errCode s.status.err ∧ b.getLsbD 1 = opBit s.status.op ∧
        b.getLsbD 0 = s.status.done) ∧
      (a = 2#3 → b.extractLsb 7 5 = 0#3 ∧ b.getLsbD 4 = s.result.valid ∧ b.extractLsb 3 0 = s.result.digit) ∧
      (a = 3#3 → b = BitVec.ofNat 8 s.len ∧ (s.len ≤ s.cfg.nmax.val → b.toNat = s.len)) ∧
      (4 ≤ a.toNat → b = 0x00#8)

/-- R30: the reserved addresses read as 0x00, ignore writes, and neither changes any state. -/
def Obligations.ReservedAddressesDoNothing : Prop :=
  ∀ (s : State) (a : Addr) (rest : List HostAction), 4 ≤ a.toNat →
    (s.pending = .read a :: rest →
      step s = .next { s with pending := rest, returned := s.returned ++ [0x00#8] }) ∧
    (∀ b : Byte, s.pending = .write a b :: rest → step s = .next { s with pending := rest })

/-- R180: Reset, from any state, gives the reset state and returns nothing. -/
def Obligations.ResetActionGivesTheResetState : Prop :=
  ∀ (s : State) (rest : List HostAction), s.pending = .reset :: rest →
    step s = .next { State.resetFor s.cfg with pending := rest, returned := s.returned }

/-- R36: what Reset leaves, register by register and as the bytes the host reads; no cell is live; CLR produces the
same state. -/
def Obligations.ResetStateHoldsTheSpecValues : Prop :=
  ∀ c : Config,
    (State.resetFor c).len = 0 ∧ statusByte (State.resetFor c).status = 0x00#8 ∧
    (State.resetFor c).status = { done := false, op := .gen, err := none, ovf := false, ill := false } ∧
    resultByte (State.resetFor c).result = 0x0F#8 ∧
    (State.resetFor c).result = { valid := false, digit := 0xF#4 } ∧
    (∀ k, (State.resetFor c).buf.read? k = none) ∧
    (∀ s : State, s.cfg = c →
      exec .clr s = .next { State.resetFor c with pending := s.pending, returned := s.returned })

/-- The model's reading of R11's "it never acts on its own" (assumption 4): with nothing pending the step leaves
the state as it is. -/
def Obligations.IdleEngineStaysAsItIs : Prop :=
  ∀ s : State, s.pending = [] → step s = .next s

/-- Every host action is complete in one step (R57), the actions are taken in the order given (R61), a byte is
returned by a read and by nothing else (R11), and the capacity never changes (R7). -/
def Obligations.EachActionCompletesInOneStep : Prop :=
  ∀ (s : State) (act : HostAction) (rest : List HostAction), s.pending = act :: rest →
    ∃ t : State, step s = .next t ∧ t.pending = rest ∧ t.returned = s.returned ++ (respond act s).toList ∧
      t.cfg = s.cfg

/-- R192: every run of finitely many host actions reaches a state, from any state; no step faults or refuses, and
enough steps take every pending action. -/
def Obligations.EveryRunReachesAState : Prop :=
  ∀ (s : State) (k : Nat), ∃ t : State, runSteps k s = .next t ∧ t.pending = s.pending.drop k

/-! ### PUSH, CLR -/

/-- R112: into a full buffer the nibble is dropped and `OVF` set, else it is appended as it is, and nothing else
changes. A stored nibble above 9 makes every later GEN and VAL fail with `InvalidDigit`, and a dropped one with
`Overflow`, which wins where both apply, until CLR or Reset. -/
def Obligations.PushFollowsItsRule : Prop :=
  (∀ (v : Nibble) (s : State),
    (s.buf.length = s.cfg.nmax.val →
      exec (.push v) s = .next { s with status := { s.status with ovf := true } }) ∧
    (s.buf.length ≠ s.cfg.nmax.val → exec (.push v) s = .next { s with buf := s.buf ++ [v] })) ∧
  (∀ (v : Nibble) (s t u w : State) (k : Nat) (i : Instr), i = .gen ∨ i = .val →
    exec (.push v) s = .next t → noClearWithin k t → runSteps k t = .next u → exec i u = .next w →
    (s.buf.length = s.cfg.nmax.val → w.status.err = some .overflow) ∧
    (s.buf.length ≠ s.cfg.nmax.val → 9 < v.toNat →
      w.status.err = if u.status.ovf = true then some .overflow else some .invalidDigit))

/-- PUSH's frame. The cell stored to is `LEN` where the buffer is not full, and there is none where it is. -/
def Obligations.PushFrame : Prop :=
  ∀ (v : Nibble) (s t : State), exec (.push v) s = .next t →
    t.cfg = s.cfg ∧ t.pending = s.pending ∧ t.returned = s.returned ∧ t.result = s.result ∧
    t.status.done = s.status.done ∧ t.status.op = s.status.op ∧ t.status.err = s.status.err ∧
    t.status.ill = s.status.ill ∧
    (s.full = false → t.status.ovf = s.status.ovf ∧ t.buf.read? s.len = some v ∧
      ∀ k, k ≠ s.len → t.buf.read? k = s.buf.read? k) ∧
    (s.full = true → t.status.ovf = true ∧ ∀ k, t.buf.read? k = s.buf.read? k)

/-- CLR (spec/41_buffer_commands.md): it gives the reset values from any state, is the state after Reset as far as the
engine goes, is idempotent and changes nothing in the reset state; and no other command clears `OVF`, `ILL` or `DONE`
or shortens the buffer. Left out of R111 is the word `ERR` in its list of what only CLR clears: by R23, R120, R130 and
R168 every GEN and VAL rewrites `ERR`, so a successful one writes it to 0 (assumption 18;
`Obligations.RecoveryFollowsItsRule` says what does become of `ERR`). `OP` is not in R111's list: GEN writes it to 0. -/
def Obligations.ClrRestoresTheResetState : Prop :=
  (∀ s : State, ∃ t : State, exec .clr s = .next t ∧
    t = { State.resetFor s.cfg with pending := s.pending, returned := s.returned } ∧
    t.len = 0 ∧ statusByte t.status = 0x00#8 ∧ resultByte t.result = 0x0F#8 ∧ exec .clr t = .next t) ∧
  (∀ c : Config, exec .clr (State.resetFor c) = .next (State.resetFor c)) ∧
  (∀ (i : Instr) (s t : State), i ≠ .clr → exec i s = .next t →
    (s.status.ovf = true → t.status.ovf = true) ∧ (s.status.ill = true → t.status.ill = true) ∧
    (s.status.done = true → t.status.done = true) ∧ s.len ≤ t.len)

/-- CLR's frame: the configuration and the host's side of the port are unchanged, and after it no cell is live. -/
def Obligations.ClrFrame : Prop :=
  ∀ s t : State, exec .clr s = .next t →
    t.cfg = s.cfg ∧ t.pending = s.pending ∧ t.returned = s.returned ∧ ∀ k, t.buf.read? k = none

/-- What the host PUSHes is appended in order, first written digit first: `n` PUSHes that fit add their `n`
nibbles after those in the buffer and change nothing else (R31, R187). -/
def Obligations.PushesAppendInOrder : Prop :=
  ∀ (s : State) (ds : List Nibble) (rest : List HostAction),
    s.pending = pushesActions ds ++ rest → s.len + ds.length ≤ s.cfg.nmax.val →
    ∃ t : State, runSteps ds.length s = .next t ∧ t = { s with buf := s.buf ++ ds, pending := rest } ∧
      ∀ k, k < ds.length → t.buf.read? (s.len + k) = ds[k]?

/-! ### GEN, VAL: the operation -/

/-- R120: the three errors in their order, each with `RESULT = 0x0F`; otherwise `RESULT.DIGIT` is `INV[ACC]` after
the loop as it is written, cell by cell, with schedule `(IDX + 1) mod 8`; `DONE` and `OP` are written in every case
and nothing but `DONE`, `OP`, `ERR` and `RESULT` is. Over the Digits of the buffer that digit is `gen_digit`, and
the rule's own examples hold. -/
def Obligations.GenFollowsItsRule : Prop :=
  (∀ s : State,
    (s.status.ovf = true → exec .gen s = .next { s with
      status := { s.status with done := true, op := .gen, err := some .overflow },
      result := { valid := false, digit := 0xF#4 } }) ∧
    (s.status.ovf = false → s.len = 0 → exec .gen s = .next { s with
      status := { s.status with done := true, op := .gen, err := some .emptyInput },
      result := { valid := false, digit := 0xF#4 } }) ∧
    (s.status.ovf = false → s.holdsBadNibble → exec .gen s = .next { s with
      status := { s.status with done := true, op := .gen, err := some .invalidDigit },
      result := { valid := false, digit := 0xF#4 } }) ∧
    (s.status.ovf = false → s.len ≠ 0 → ¬ s.holdsBadNibble → exec .gen s = .next { s with
      status := { s.status with done := true, op := .gen, err := none },
      result := { valid := false, digit := BitVec.ofNat 4 (inv (indexedFold s.buf 1)).val } })) ∧
  (∀ ds : List Digit, inv (indexedFold (ds.map nibbleOfDigit) 1) = genDigit ds) ∧
  (∀ d : Digit, resultByte { valid := false, digit := BitVec.ofNat 4 d.val } = BitVec.ofNat 8 d.val) ∧
  ((List.finRange 10).map fun v => (genDigit [v]).val) = [4, 5, 7, 6, 3, 8, 2, 0, 9, 1] ∧
  genDigit [0, 0] = 6 ∧ genDigit [2, 3, 6] = 3

/-- R130: the same of VAL, with schedule `IDX mod 8`: `VALID` is 1 iff `ACC = 0` after the loop and `DIGIT` is 0xF, so
`RESULT` reads as 0x1F or 0x0F. Over the Digits of the buffer that verdict is `is_valid_seq`, and the rule's own
examples hold: of the one-digit strings only `0` is valid, of the two-digit strings exactly ten. -/
def Obligations.ValFollowsItsRule : Prop :=
  (∀ s : State,
    (s.status.ovf = true → exec .val s = .next { s with
      status := { s.status with done := true, op := .val, err := some .overflow },
      result := { valid := false, digit := 0xF#4 } }) ∧
    (s.status.ovf = false → s.len = 0 → exec .val s = .next { s with
      status := { s.status with done := true, op := .val, err := some .emptyInput },
      result := { valid := false, digit := 0xF#4 } }) ∧
    (s.status.ovf = false → s.holdsBadNibble → exec .val s = .next { s with
      status := { s.status with done := true, op := .val, err := some .invalidDigit },
      result := { valid := false, digit := 0xF#4 } }) ∧
    (s.status.ovf = false → s.len ≠ 0 → ¬ s.holdsBadNibble → exec .val s = .next { s with
      status := { s.status with done := true, op := .val, err := none },
      result := { valid := decide (indexedFold s.buf 0 = 0), digit := 0xF#4 } })) ∧
  (∀ ds : List Digit, decide (indexedFold (ds.map nibbleOfDigit) 0 = 0) = isValidSeq ds) ∧
  (∀ b : Bool, resultByte { valid := b, digit := 0xF#4 } = if b = true then 0x1F#8 else 0x0F#8) ∧
  (∀ v : Digit, isValidSeq [v] = true ↔ v = 0) ∧
  (((List.finRange 10).flatMap fun a => (List.finRange 10).map fun b => (a, b)).filter fun p =>
      isValidSeq [p.1, p.2]) =
    [(0, 4), (1, 5), (2, 7), (3, 6), (4, 3), (5, 8), (6, 2), (7, 0), (8, 9), (9, 1)] ∧
  isValidSeq [2, 3, 6, 3] = true

/-- The frame of GEN and VAL, on every path: `BUF`, `LEN`, `OVF` and `ILL` are unchanged, and so are the
configuration and the host's side of the port. Neither stores to any cell. -/
def Obligations.GenAndValFrame : Prop :=
  ∀ (i : Instr) (s t : State), i = .gen ∨ i = .val → exec i s = .next t →
    t.cfg = s.cfg ∧ t.pending = s.pending ∧ t.returned = s.returned ∧ t.len = s.len ∧
    (∀ k, t.buf.read? k = s.buf.read? k) ∧ t.status.ovf = s.status.ovf ∧ t.status.ill = s.status.ill

/-- R122: what GEN writes is a function of the live cells and `OVF` alone, it writes nothing else, and executing
it twice leaves what executing it once leaves. -/
def Obligations.GenIsPure : Prop :=
  (∀ s₁ s₂ : State, s₁.buf = s₂.buf → s₁.status.ovf = s₂.status.ovf →
    ∃ t₁ t₂ : State, exec .gen s₁ = .next t₁ ∧ exec .gen s₂ = .next t₂ ∧ t₁.result = t₂.result ∧
      t₁.status.done = t₂.status.done ∧ t₁.status.op = t₂.status.op ∧ t₁.status.err = t₂.status.err) ∧
  (∀ s t : State, exec .gen s = .next t →
    t = { s with
      status := { s.status with done := t.status.done, op := t.status.op, err := t.status.err },
      result := t.result } ∧
    exec .gen t = .next t)

/-- R132: the same of VAL. -/
def Obligations.ValIsPure : Prop :=
  (∀ s₁ s₂ : State, s₁.buf = s₂.buf → s₁.status.ovf = s₂.status.ovf →
    ∃ t₁ t₂ : State, exec .val s₁ = .next t₁ ∧ exec .val s₂ = .next t₂ ∧ t₁.result = t₂.result ∧
      t₁.status.done = t₂.status.done ∧ t₁.status.op = t₂.status.op ∧ t₁.status.err = t₂.status.err) ∧
  (∀ s t : State, exec .val s = .next t →
    t = { s with
      status := { s.status with done := t.status.done, op := t.status.op, err := t.status.err },
      result := t.result } ∧
    exec .val t = .next t)

/-! ### GEN, VAL: the errors -/

/-- R161: GEN and VAL on the empty buffer raise `EmptyInput`, code 1, directly after Reset too, although the fold
of the empty sequence is 0. -/
def Obligations.EmptyBufferRaisesEmptyInput : Prop :=
  (∀ s : State, s.status.ovf = false → s.len = 0 →
    exec .gen s = .next { s with
      status := { s.status with done := true, op := .gen, err := some .emptyInput },
      result := { valid := false, digit := 0xF#4 } } ∧
    exec .val s = .next { s with
      status := { s.status with done := true, op := .val, err := some .emptyInput },
      result := { valid := false, digit := 0xF#4 } }) ∧
  errCode (some .emptyInput) = 1#2 ∧
  (∀ c : Config, (State.resetFor c).status.ovf = false ∧ (State.resetFor c).len = 0) ∧
  (∀ s t : State, exec .clr s = .next t → t.status.ovf = false ∧ t.len = 0) ∧
  fold [] 0 = 0

/-- R162: GEN and VAL raise `InvalidDigit`, code 2, when any live cell holds a nibble above 9, wherever it is, and
the nibble stays until CLR or Reset. -/
def Obligations.BadNibbleRaisesInvalidDigit : Prop :=
  (∀ s : State, s.status.ovf = false → s.holdsBadNibble →
    exec .gen s = .next { s with
      status := { s.status with done := true, op := .gen, err := some .invalidDigit },
      result := { valid := false, digit := 0xF#4 } } ∧
    exec .val s = .next { s with
      status := { s.status with done := true, op := .val, err := some .invalidDigit },
      result := { valid := false, digit := 0xF#4 } }) ∧
  errCode (some .invalidDigit) = 2#2 ∧
  (∀ (s t : State) (k : Nat), s.holdsBadNibble → noClearWithin k s → runSteps k s = .next t → t.holdsBadNibble)

/-- R163: GEN and VAL raise `Overflow`, code 3, while `OVF` is set; a PUSH into a full buffer sets it and it
stays until CLR or Reset. -/
def Obligations.DroppedDigitRaisesOverflow : Prop :=
  (∀ s : State, s.status.ovf = true →
    exec .gen s = .next { s with
      status := { s.status with done := true, op := .gen, err := some .overflow },
      result := { valid := false, digit := 0xF#4 } } ∧
    exec .val s = .next { s with
      status := { s.status with done := true, op := .val, err := some .overflow },
      result := { valid := false, digit := 0xF#4 } }) ∧
  errCode (some .overflow) = 3#2 ∧
  (∀ (v : Nibble) (s t : State), s.len = s.cfg.nmax.val → exec (.push v) s = .next t → t.status.ovf = true) ∧
  (∀ (s t : State) (k : Nat), s.status.ovf = true → noClearWithin k s → runSteps k s = .next t →
    t.status.ovf = true)

/-- R165: exactly one error is reported, `Overflow` before `EmptyInput` before `InvalidDigit`; the last two never
apply together, and the first two never do where the invariants hold. -/
def Obligations.ErrorsAreReportedByPriority : Prop :=
  (∀ (i : Instr) (s t : State), i = .gen ∨ i = .val → exec i s = .next t →
    (s.status.ovf = true → t.status.err = some .overflow) ∧
    (s.status.ovf = false → s.len = 0 → t.status.err = some .emptyInput) ∧
    (s.status.ovf = false → s.len ≠ 0 → s.holdsBadNibble → t.status.err = some .invalidDigit) ∧
    (s.status.ovf = false → s.len ≠ 0 → ¬ s.holdsBadNibble → t.status.err = none)) ∧
  (∀ s : State, s.len = 0 → ¬ s.holdsBadNibble) ∧
  (∀ s : State, s.Inv → s.status.ovf = true → s.len ≠ 0)

/-- R166: error entry writes `ERR`, `DONE`, `OP` and `RESULT` and nothing else. -/
def Obligations.ErrorEntryWritesStatusAndResultOnly : Prop :=
  ∀ (s t : State) (e : ErrorCond), t.status.err = some e →
    (exec .gen s = .next t → t = { s with
      status := { s.status with done := true, op := .gen, err := some e },
      result := { valid := false, digit := 0xF#4 } }) ∧
    (exec .val s = .next t → t = { s with
      status := { s.status with done := true, op := .val, err := some e },
      result := { valid := false, digit := 0xF#4 } })

/-- All or nothing (R167): a GEN or VAL either reports code 0 and holds the result of the whole fold over the
buffered Digits, or reports an error and holds neither a digit nor a positive verdict. -/
def Obligations.ErrorsLeaveNoPartialResult : Prop :=
  ∀ s t : State,
    (exec .gen s = .next t →
      (errCode t.status.err ≠ 0#2 → resultByte t.result = 0x0F#8) ∧
      (errCode t.status.err = 0#2 → ∃ ds : List Digit, ds ≠ [] ∧ s.buf = ds.map nibbleOfDigit ∧
        t.result = { valid := false, digit := nibbleOfDigit (inv (fold ds 1)) })) ∧
    (exec .val s = .next t →
      (errCode t.status.err ≠ 0#2 → resultByte t.result = 0x0F#8) ∧
      (errCode t.status.err = 0#2 → ∃ ds : List Digit, ds ≠ [] ∧ s.buf = ds.map nibbleOfDigit ∧
        t.result = { valid := decide (fold ds 0 = 0), digit := 0xF#4 }))

/-! ### Rules about every step -/

/-- R26: `OVF` is set by a PUSH with `LEN = NMAX` and by nothing else, only CLR and Reset clear it, and while it is
1 every GEN and VAL fails with code 3. -/
def Obligations.OvfChangesOnlyAsStated : Prop :=
  (∀ s t : State, step s = .next t →
    (s.nextClears → t.status.ovf = false) ∧
    (∀ v, s.nextCommand? = some (.instr (.push v)) → s.len = s.cfg.nmax.val → t.status.ovf = true) ∧
    (¬ s.nextClears → (∀ v, s.nextCommand? = some (.instr (.push v)) → s.len ≠ s.cfg.nmax.val) →
      t.status.ovf = s.status.ovf)) ∧
  (∀ (i : Instr) (s t : State), i = .gen ∨ i = .val → s.status.ovf = true → exec i s = .next t →
    errCode t.status.err = 3#2)

/-- R27: `ILL` is set by a reserved word at `CMD` and by nothing else, stays until CLR or Reset, and has no effect
on any command. -/
def Obligations.IllChangesOnlyAsStated : Prop :=
  (∀ s t : State, step s = .next t →
    (s.nextClears → t.status.ill = false) ∧
    (∀ w, s.nextCommand? = some (.illegal w) → t.status.ill = true) ∧
    (¬ s.nextClears → (∀ w, s.nextCommand? ≠ some (.illegal w)) → t.status.ill = s.status.ill)) ∧
  (∀ (i : Instr) (s t : State) (b : Bool), i ≠ .clr → exec i s = .next t →
    exec i { s with status := { s.status with ill := b } } =
      .next { t with status := { t.status with ill := b } })

/-- R29: `LEN` over every step: CLR and Reset set it to 0, a PUSH below `NMAX` adds 1, nothing else writes it, and
it stays in 0..NMAX. -/
def Obligations.LenChangesOnlyAsStated : Prop :=
  ∀ s t : State, s.Inv → step s = .next t →
    t.len ≤ t.cfg.nmax.val ∧
    (s.nextClears → t.len = 0) ∧
    (∀ v, s.nextCommand? = some (.instr (.push v)) → s.len < s.cfg.nmax.val → t.len = s.len + 1) ∧
    (¬ s.nextClears → (∀ v, s.nextCommand? = some (.instr (.push v)) → ¬ s.len < s.cfg.nmax.val) →
      t.len = s.len)

/-- `DONE`, `OP`, `ERR` and `RESULT` over every step: GEN and VAL set `DONE` and `OP`, CLR and Reset clear all four,
and nothing else writes any of them. -/
def Obligations.ResultFieldsChangeOnlyAsStated : Prop :=
  ∀ s t : State, step s = .next t →
    (s.nextClears → t.status.done = false ∧ t.status.op = .gen ∧ t.status.err = none ∧
      resultByte t.result = 0x0F#8) ∧
    (s.nextCommand? = some (.instr .gen) → t.status.done = true ∧ t.status.op = .gen) ∧
    (s.nextCommand? = some (.instr .val) → t.status.done = true ∧ t.status.op = .val) ∧
    (¬ s.nextClears → s.nextCommand? ≠ some (.instr .gen) → s.nextCommand? ≠ some (.instr .val) →
      t.status.done = s.status.done ∧ t.status.op = s.status.op ∧ t.status.err = s.status.err ∧
      t.result = s.result)

/-- R186: a PUSH changes the buffer but leaves the fields that describe the last GEN or VAL; CLR resets them. -/
def Obligations.PushLeavesAStaleResult : Prop :=
  (∀ (v : Nibble) (s t : State), exec (.push v) s = .next t →
    t.result = s.result ∧ t.status.done = s.status.done ∧ t.status.op = s.status.op ∧
    t.status.err = s.status.err ∧ (s.len ≠ s.cfg.nmax.val → t.buf ≠ s.buf)) ∧
  (∀ s t : State, exec .clr s = .next t →
    resultByte t.result = 0x0F#8 ∧ t.status.done = false ∧ t.status.op = .gen ∧ t.status.err = none)

/-- R58: reads and writes to addresses 1..7 have no effect on the engine; two PUSHes of 5 append two digits; GEN,
VAL and CLR are idempotent. -/
def Obligations.OnlyCommandsHaveEffects : Prop :=
  (∀ (s t : State) (a : Addr) (rest : List HostAction), s.pending = .read a :: rest → step s = .next t →
    t.cfg = s.cfg ∧ t.buf = s.buf ∧ t.status = s.status ∧ t.result = s.result) ∧
  (∀ (s : State) (a : Addr) (b : Byte) (rest : List HostAction), a ≠ 0#3 → s.pending = .write a b :: rest →
    step s = .next { s with pending := rest }) ∧
  (∀ s t u : State, s.len + 2 ≤ s.cfg.nmax.val → exec (.push 5#4) s = .next t → exec (.push 5#4) t = .next u →
    u.buf = s.buf ++ [5#4, 5#4]) ∧
  (∀ (i : Instr) (s t : State), i = .gen ∨ i = .val ∨ i = .clr → exec i s = .next t → exec i t = .next t)

/-! ### Invariants -/

/-- The invariants of R34 are kept by every step, from every state that meets them. -/
def Obligations.StepKeepsTheInvariants : Prop :=
  ∀ s t : State, s.Inv → step s = .next t → t.Inv

/-- The reset state meets the invariants, at every capacity and whatever the host is about to present. -/
def Obligations.ResetMeetsTheInvariants : Prop :=
  ∀ (c : Config) (acts : List HostAction), (State.freshRun c acts).Inv

/-- R34: the eight invariants hold in every state reachable from Reset by host actions, at every capacity. -/
def Obligations.ReachableStatesMeetTheInvariants : Prop :=
  ∀ s : State, s.Reachable → s.Inv

/-- R28: the layout of `RESULT`; what each step leaves in it (a successful GEN the check digit, a successful VAL 0x1F
or 0x0F by its verdict, a failed GEN or VAL, a CLR or a Reset 0x0F, anything else, a write to address 2 among them,
what was there); and so in every reachable state only the listed bytes. -/
def Obligations.ResultTakesOnlyTheListedBytes : Prop :=
  (∀ r : Result, (resultByte r).extractLsb 3 0 = r.digit ∧ (resultByte r).getLsbD 4 = r.valid ∧
    (resultByte r).extractLsb 7 5 = 0#3) ∧
  (∀ s t : State, step s = .next t →
    (s.nextCommand? = some (.instr .gen) → t.status.err = none →
      ∃ ds : List Digit, ds ≠ [] ∧ s.buf = ds.map nibbleOfDigit ∧
        (resultByte t.result).toNat = (genDigit ds).val) ∧
    (s.nextCommand? = some (.instr .val) → t.status.err = none →
      ∃ ds : List Digit, ds ≠ [] ∧ s.buf = ds.map nibbleOfDigit ∧
        resultByte t.result = if isValidSeq ds = true then 0x1F#8 else 0x0F#8) ∧
    (s.nextCommand? = some (.instr .gen) ∨ s.nextCommand? = some (.instr .val) → t.status.err ≠ none →
      resultByte t.result = 0x0F#8) ∧
    (s.nextClears → resultByte t.result = 0x0F#8) ∧
    (s.nextCommand? ≠ some (.instr .gen) → s.nextCommand? ≠ some (.instr .val) → ¬ s.nextClears →
      t.result = s.result)) ∧
  (∀ s : State, s.Reachable →
    (resultByte s.result).toNat ≤ 9 ∨ resultByte s.result = 0x1F#8 ∨ resultByte s.result = 0x0F#8)

/-! ### The tables -/

/-- R90, R92, R94: the tables hold the literals. -/
def Obligations.TablesHoldTheLiterals : Prop :=
  ((List.finRange 10).map fun a => (List.finRange 10).map fun b => (mul a b).val) =
    [[0,1,2,3,4,5,6,7,8,9], [1,2,3,4,0,6,7,8,9,5], [2,3,4,0,1,7,8,9,5,6], [3,4,0,1,2,8,9,5,6,7],
     [4,0,1,2,3,9,5,6,7,8], [5,9,8,7,6,0,4,3,2,1], [6,5,9,8,7,1,0,4,3,2], [7,6,5,9,8,2,1,0,4,3],
     [8,7,6,5,9,3,2,1,0,4], [9,8,7,6,5,4,3,2,1,0]] ∧
  ((List.finRange 10).map fun a => (inv a).val) = [0,4,3,2,1,5,6,7,8,9] ∧
  ((List.finRange 8).map fun k => (List.finRange 10).map fun v => (perm k v).val) =
    [[0,1,2,3,4,5,6,7,8,9], [1,5,7,6,2,8,3,0,9,4], [5,8,0,3,7,9,6,1,4,2], [8,9,1,6,0,4,3,5,2,7],
     [9,4,5,3,1,2,6,8,7,0], [4,2,8,6,5,7,3,9,0,1], [2,7,9,3,8,0,6,4,1,5], [7,0,4,6,9,1,3,2,5,8]]

/-- R91: cancellation on both sides, identity, associativity, the closed form, and the 60 ordered pairs that do
not commute. -/
def Obligations.MultiplicationTableIsAGroup : Prop :=
  (∀ a b b' : Digit, mul a b = mul a b' → b = b') ∧ (∀ a a' b : Digit, mul a b = mul a' b → a = a') ∧
  (∀ a : Digit, mul 0 a = a ∧ mul a 0 = a) ∧
  (∀ a b c : Digit, mul (mul a b) c = mul a (mul b c)) ∧
  (∀ a b : Digit, ((mul a b).val : Int) =
    if a.val < 5 then
      if b.val < 5 then ((a.val % 5 : Nat) + (b.val % 5 : Nat) : Int) % 5
      else 5 + ((a.val % 5 : Nat) + (b.val % 5 : Nat) : Int) % 5
    else
      if b.val < 5 then 5 + ((a.val % 5 : Nat) - (b.val % 5 : Nat) : Int) % 5
      else ((a.val % 5 : Nat) - (b.val % 5 : Nat) : Int) % 5) ∧
  (((List.finRange 10).flatMap fun a => (List.finRange 10).filter fun b => mul a b ≠ mul b a).length = 60) ∧
  mul 1 5 = 6 ∧ mul 5 1 = 9

/-- R93: `INV` is the two-sided inverse, the only one, and an involution; rotations go to `5 - a`, 0 and the
reflections are their own inverses. -/
def Obligations.InverseTableInverts : Prop :=
  (∀ a : Digit, mul a (inv a) = 0 ∧ mul (inv a) a = 0 ∧ inv (inv a) = a) ∧
  (∀ a b : Digit, mul a b = 0 → b = inv a) ∧
  (∀ a b : Digit, inv a = inv b → a = b) ∧
  (∀ a : Digit, 1 ≤ a.val → a.val ≤ 4 → (inv a).val = 5 - a.val) ∧
  (∀ a : Digit, a = 0 ∨ 5 ≤ a.val → inv a = a)

/-- R95: each row of `P` is injective, row 0 is the identity, the rows are the successive powers of row 1 with
period 8, and the anti-transposition property. -/
def Obligations.PermutationRowsArePowers : Prop :=
  (∀ (k : Row) (v v' : Digit), perm k v = perm k v' → v = v') ∧
  (∀ v : Digit, perm 0 v = v) ∧
  (∀ (k : Row) (v : Digit), perm (k + 1) v = perm 1 (perm k v)) ∧
  ((List.finRange 8).map (fun k => (perm k 0).val) = [0, 1, 5, 8, 9, 4, 2, 7] ∧ perm 1 7 = 0 ∧
    perm 1 3 = 6 ∧ perm 1 6 = 3) ∧
  (∀ (k : Row) (a b : Digit), a ≠ b →
    mul (perm k a) (perm (k + 1) b) ≠ mul (perm k b) (perm (k + 1) a))

/-! ### The fold and the laws of the two functions -/

/-- R100: the fold is the indexed loop over the cells from the last to the first, the fold of nothing is 0, and it
is the group product of its factors, however bracketed (here to the right). -/
def Obligations.FoldIsTheIndexedProduct : Prop :=
  (∀ (ds : List Digit) (o : Nat), fold ds o = indexedFold (ds.map nibbleOfDigit) o) ∧
  (∀ o : Nat, fold [] o = 0) ∧
  (∀ (ds : List Digit) (o : Nat), fold ds o = (factorsFrom o ds.reverse).foldl mul 0 ∧
    fold ds o = (factorsFrom o ds.reverse).foldr mul 0) ∧
  (∀ (ds : List Digit) (o i : Nat) (h : i < ds.length),
    (factorsFrom o ds.reverse)[i]? = some (perm (rowAt i o) (ds[ds.length - 1 - i]'(by omega))))

/-- The loop of GEN and VAL runs exactly once per Digit (R123, R133). -/
def Obligations.LoopRunsOncePerDigit : Prop :=
  ∀ (ds : List Digit) (o : Nat), (workLoop o ds).idx = ds.length

/-- R103 item 2: the row index is the low three bits of `i + o`, and a 3-bit counter that starts at `o` and
increments modulo 8 gives the same fold. -/
def Obligations.RowCounterMayBeThreeBits : Prop :=
  (∀ i o : Nat, (rowAt i o).val = (i + o) % 8) ∧ ∀ (ds : List Digit) (o : Nat), counterFold ds o = fold ds o

/-- R144: the payload with its check digit appended is valid. -/
def Obligations.CheckDigitRoundTrip : Prop :=
  ∀ ds : List Digit, ds ≠ [] → isValidSeq (ds ++ [genDigit ds]) = true

/-- R145: changing any one digit of a valid string makes it not valid. -/
def Obligations.SingleDigitErrorsAreDetected : Prop :=
  ∀ (ds : List Digit) (i : Nat) (h : i < ds.length) (v : Digit),
    isValidSeq ds = true → v ≠ ds[i] → isValidSeq (ds.set i v) = false

/-- R146: swapping two adjacent digits that differ makes a valid string not valid. -/
def Obligations.AdjacentTranspositionsAreDetected : Prop :=
  ∀ (ds : List Digit) (i : Nat) (h : i + 1 < ds.length),
    isValidSeq ds = true → ds[i] ≠ ds[i + 1] →
    isValidSeq ((ds.set i ds[i + 1]).set (i + 1) ds[i]) = false

/-- R148: exactly one Digit makes the payload valid, the one GEN gives. -/
def Obligations.CheckDigitIsUnique : Prop :=
  ∀ (ds : List Digit) (k : Digit), ds ≠ [] → (isValidSeq (ds ++ [k]) = true ↔ k = genDigit ds)

/-- R149: the relation between the two schedules. -/
def Obligations.SchedulesAreRelated : Prop :=
  (∀ (ds : List Digit) (k : Digit), fold (ds ++ [k]) 0 = mul k (fold ds 1)) ∧
  (∀ ds : List Digit, fold (ds ++ [0]) 0 = fold ds 1)

/-! ### The source's two functions at the host port -/

/-- R140: the bytes `COMPUTE s` returns, for every sequence of nibbles and from every state; the CLR may be omitted
where the engine is in its reset state. -/
def Obligations.ComputeReturnsTheStatedBytes : Prop :=
  (∀ (s : State) (ds : List Nibble) (rest : List HostAction), s.pending = computeActions ds ++ rest →
    ∃ (t : State) (st rs : Byte), runSteps (ds.length + 4) s = .next t ∧
      t.pending = rest ∧ t.returned = s.returned ++ [st, rs] ∧ ComputeReply s.cfg ds st rs) ∧
  (∀ (s : State) (ds : List Nibble) (rest : List HostAction), s.pending = (computeActions ds).tail ++ rest →
    s = { State.resetFor s.cfg with pending := s.pending, returned := s.returned } →
    ∃ (t : State) (st rs : Byte), runSteps (ds.length + 3) s = .next t ∧
      t.pending = rest ∧ t.returned = s.returned ++ [st, rs] ∧ ComputeReply s.cfg ds st rs)

/-- R141: the bytes `ISVALID t` returns, for every sequence of nibbles and from every state. -/
def Obligations.IsvalidReturnsTheStatedBytes : Prop :=
  ∀ (s : State) (ds : List Nibble) (rest : List HostAction), s.pending = isvalidActions ds ++ rest →
    ∃ (t : State) (st rs : Byte), runSteps (ds.length + 4) s = .next t ∧
      t.pending = rest ∧ t.returned = s.returned ++ [st, rs] ∧ IsvalidReply s.cfg ds st rs

/-- R142: generate, append the digit read, validate: for every non-empty Digit sequence that leaves room for the
check digit the last two reads return 0x03 and 0x1F, and the buffer holds the payload with its check digit. -/
def Obligations.GenerateThenVerifySucceeds : Prop :=
  ∀ (s : State) (ds : List Digit) (rest : List HostAction), ds ≠ [] → ds.length + 1 ≤ s.cfg.nmax.val →
    s.pending = computeActions (ds.map nibbleOfDigit) ++
      [commandAction (.push (nibbleOfDigit (genDigit ds))), commandAction .val,
       .read addrStatus, .read addrResult] ++ rest →
    ∃ t : State, runSteps (ds.length + 8) s = .next t ∧ t.pending = rest ∧
      t.returned = s.returned ++ [0x01#8, BitVec.ofNat 8 (genDigit ds).val, 0x03#8, 0x1F#8] ∧
      t.buf = (ds ++ [genDigit ds]).map nibbleOfDigit

/-- R143: `COMPUTE s` and `ISVALID t` return bytes that depend on the sequence and `NMAX` only, not on the state
before them. -/
def Obligations.RepliesDependOnTheSequenceOnly : Prop :=
  ∀ (s₁ s₂ : State) (ds : List Nibble) (rest₁ rest₂ : List HostAction), s₁.cfg = s₂.cfg →
    (s₁.pending = computeActions ds ++ rest₁ ∧ s₂.pending = computeActions ds ++ rest₂ ∨
     s₁.pending = isvalidActions ds ++ rest₁ ∧ s₂.pending = isvalidActions ds ++ rest₂) →
    ∃ (t₁ t₂ : State) (reply : List Byte),
      runSteps (ds.length + 4) s₁ = .next t₁ ∧ runSteps (ds.length + 4) s₂ = .next t₂ ∧
      t₁.returned = s₁.returned ++ reply ∧ t₂.returned = s₂.returned ++ reply ∧ reply.length = 2

/-! ### Recovery -/

/-- R168: recovery is by the host. A GEN or VAL that has its operand completes with `ERR = 0`, whatever error stood
there; after `EmptyInput` a PUSH of a Digit, with or without a CLR before it, and the same command complete; after any
outcome, CLR or Reset, a PUSH of a Digit and the command do; a failed command repeated on the same buffer fails the same way;
no command but CLR removes a digit; and `OVF` and `ILL` are cleared by CLR and Reset only. -/
def Obligations.RecoveryFollowsItsRule : Prop :=
  (∀ (i : Instr) (s : State), i = .gen ∨ i = .val →
    s.status.ovf = false → s.len ≠ 0 → ¬ s.holdsBadNibble →
    ∃ t : State, exec i s = .next t ∧ t.status.err = none) ∧
  (∀ (i : Instr) (s t : State) (d : Digit), i = .gen ∨ i = .val → exec i s = .next t →
    t.status.err = some .emptyInput →
    ∃ u w : State, exec (.push (nibbleOfDigit d)) t = .next u ∧ exec i u = .next w ∧ w.status.err = none) ∧
  (∀ (i : Instr) (s t : State) (d : Digit), i = .gen ∨ i = .val → exec .clr s = .next t ∨ t = hostReset s →
    ∃ u w : State, exec (.push (nibbleOfDigit d)) t = .next u ∧ exec i u = .next w ∧ w.status.err = none) ∧
  (∀ (i : Instr) (s t : State), i = .gen ∨ i = .val → exec i s = .next t → t.status.err ≠ none →
    exec i t = .next t) ∧
  (∀ (i : Instr) (s t : State), i ≠ .clr → exec i s = .next t → s.len ≤ t.len) ∧
  (∀ s t : State, step s = .next t → ¬ s.nextClears →
    (s.status.ovf = true → t.status.ovf = true) ∧ (s.status.ill = true → t.status.ill = true)) ∧
  (∀ s t : State, step s = .next t → s.nextClears → t.status.ovf = false ∧ t.status.ill = false)
end

