-- ==== Sys2Proof/Laws/Fold.lean ====
section
/-! SUPPORT. The fold's small lemmas: its two equations, at the most and at the least significant end
(spec/40_tables.md R100). -/
namespace Sys2Proof.Machine

@[simp] theorem workStep_acc (o : Nat) (w : Work) (v : Digit) :
    (workStep o w v).acc = fstep w.acc (rowAt w.idx o) v := rfl

@[simp] theorem workStep_idx (o : Nat) (w : Work) (v : Digit) : (workStep o w v).idx = w.idx + 1 := rfl

@[simp] theorem workLoop_nil (o : Nat) : workLoop o [] = workStart := rfl

/-- The most significant Digit is folded last. -/
theorem workLoop_cons (o : Nat) (v : Digit) (s : List Digit) :
    workLoop o (v :: s) = workStep o (workLoop o s) v := by
  simp [workLoop]

/-- The least significant Digit is folded first. -/
theorem workLoop_snoc (o : Nat) (s : List Digit) (v : Digit) :
    workLoop o (s ++ [v]) = s.reverse.foldl (workStep o) (workStep o workStart v) := by
  simp [workLoop]

@[simp] theorem fold_nil (o : Nat) : fold [] o = 0 := rfl

theorem rowAt_succ (i o : Nat) : rowAt (i + 1) o = rowAt i (o + 1) := by
  unfold rowAt
  congr 1
  omega

end Sys2Proof.Machine
end

