-- ==== Sys2Proof/Laws/State.lean ====
section
/-! SUPPORT. One lemma per field per named update of the state, true by unfolding, so that no later proof opens a
record update. -/
namespace Sys2Proof.Machine

variable (s : State)

@[simp] theorem State.appendCell_cfg (v : Nibble) : (s.appendCell v).cfg = s.cfg := rfl
@[simp] theorem State.appendCell_buf (v : Nibble) : (s.appendCell v).buf = s.buf.append v := rfl
@[simp] theorem State.appendCell_status (v : Nibble) : (s.appendCell v).status = s.status := rfl
@[simp] theorem State.appendCell_result (v : Nibble) : (s.appendCell v).result = s.result := rfl
@[simp] theorem State.appendCell_pending (v : Nibble) : (s.appendCell v).pending = s.pending := rfl
@[simp] theorem State.appendCell_returned (v : Nibble) : (s.appendCell v).returned = s.returned := rfl

@[simp] theorem State.markOverflow_cfg : (s.markOverflow).cfg = s.cfg := rfl
@[simp] theorem State.markOverflow_buf : (s.markOverflow).buf = s.buf := rfl
@[simp] theorem State.markOverflow_status : (s.markOverflow).status = { s.status with ovf := true } := rfl
@[simp] theorem State.markOverflow_result : (s.markOverflow).result = s.result := rfl
@[simp] theorem State.markOverflow_pending : (s.markOverflow).pending = s.pending := rfl
@[simp] theorem State.markOverflow_returned : (s.markOverflow).returned = s.returned := rfl
@[simp] theorem State.markOverflow_len : (s.markOverflow).len = s.len := rfl

@[simp] theorem State.markIllegal_cfg : (s.markIllegal).cfg = s.cfg := rfl
@[simp] theorem State.markIllegal_buf : (s.markIllegal).buf = s.buf := rfl
@[simp] theorem State.markIllegal_status : (s.markIllegal).status = { s.status with ill := true } := rfl
@[simp] theorem State.markIllegal_result : (s.markIllegal).result = s.result := rfl
@[simp] theorem State.markIllegal_pending : (s.markIllegal).pending = s.pending := rfl
@[simp] theorem State.markIllegal_returned : (s.markIllegal).returned = s.returned := rfl
@[simp] theorem State.markIllegal_len : (s.markIllegal).len = s.len := rfl

@[simp] theorem State.complete_cfg (op : Op) (r : Result) : (s.complete op r).cfg = s.cfg := rfl
@[simp] theorem State.complete_buf (op : Op) (r : Result) : (s.complete op r).buf = s.buf := rfl
@[simp] theorem State.complete_status (op : Op) (r : Result) : (s.complete op r).status = { s.status with done := true, op := op, err := none } := rfl
@[simp] theorem State.complete_result (op : Op) (r : Result) : (s.complete op r).result = r := rfl
@[simp] theorem State.complete_pending (op : Op) (r : Result) : (s.complete op r).pending = s.pending := rfl
@[simp] theorem State.complete_returned (op : Op) (r : Result) : (s.complete op r).returned = s.returned := rfl
@[simp] theorem State.complete_len (op : Op) (r : Result) : (s.complete op r).len = s.len := rfl

@[simp] theorem State.raise_cfg (e : ErrorCond) (op : Op) : (s.raise e op).cfg = s.cfg := rfl
@[simp] theorem State.raise_buf (e : ErrorCond) (op : Op) : (s.raise e op).buf = s.buf := rfl
@[simp] theorem State.raise_status (e : ErrorCond) (op : Op) : (s.raise e op).status = { s.status with done := true, op := op, err := some e } := rfl
@[simp] theorem State.raise_result (e : ErrorCond) (op : Op) : (s.raise e op).result = Result.noResult := rfl
@[simp] theorem State.raise_pending (e : ErrorCond) (op : Op) : (s.raise e op).pending = s.pending := rfl
@[simp] theorem State.raise_returned (e : ErrorCond) (op : Op) : (s.raise e op).returned = s.returned := rfl
@[simp] theorem State.raise_len (e : ErrorCond) (op : Op) : (s.raise e op).len = s.len := rfl

@[simp] theorem State.clearEngine_cfg : (s.clearEngine).cfg = s.cfg := rfl
@[simp] theorem State.clearEngine_buf : (s.clearEngine).buf = [] := rfl
@[simp] theorem State.clearEngine_status : (s.clearEngine).status = Status.reset := rfl
@[simp] theorem State.clearEngine_result : (s.clearEngine).result = Result.noResult := rfl
@[simp] theorem State.clearEngine_pending : (s.clearEngine).pending = s.pending := rfl
@[simp] theorem State.clearEngine_returned : (s.clearEngine).returned = s.returned := rfl

@[simp] theorem State.appendCell_len (v : Nibble) : (s.appendCell v).len = s.len + 1 := by
  simp [State.len, Memory.append]
@[simp] theorem State.clearEngine_len : s.clearEngine.len = 0 := rfl

@[simp] theorem State.resetFor_cfg (c : Config) : (State.resetFor c).cfg = c := rfl
@[simp] theorem State.resetFor_buf (c : Config) : (State.resetFor c).buf = [] := rfl
@[simp] theorem State.resetFor_status (c : Config) : (State.resetFor c).status = Status.reset := rfl
@[simp] theorem State.resetFor_result (c : Config) : (State.resetFor c).result = Result.noResult := rfl
@[simp] theorem State.resetFor_pending (c : Config) : (State.resetFor c).pending = [] := rfl
@[simp] theorem State.resetFor_returned (c : Config) : (State.resetFor c).returned = [] := rfl

@[simp] theorem Status.reset_done : Status.reset.done = false := rfl
@[simp] theorem Status.reset_op : Status.reset.op = .gen := rfl
@[simp] theorem Status.reset_err : Status.reset.err = none := rfl
@[simp] theorem Status.reset_ovf : Status.reset.ovf = false := rfl
@[simp] theorem Status.reset_ill : Status.reset.ill = false := rfl

@[simp] theorem presentFirst_pending (act : HostAction) : (presentFirst act s).pending = act :: s.pending := rfl
@[simp] theorem presentFirst_cfg (act : HostAction) : (presentFirst act s).cfg = s.cfg := rfl
@[simp] theorem presentFirst_buf (act : HostAction) : (presentFirst act s).buf = s.buf := rfl
@[simp] theorem presentFirst_status (act : HostAction) : (presentFirst act s).status = s.status := rfl
@[simp] theorem presentFirst_result (act : HostAction) : (presentFirst act s).result = s.result := rfl
@[simp] theorem presentFirst_returned (act : HostAction) : (presentFirst act s).returned = s.returned := rfl

end Sys2Proof.Machine
end

