-- ==== Sys2Proof/Laws/Ops.lean ====
section
/-! SUPPORT. For each shared operation over the buffer and the operands, one lemma that says all it can do. -/
namespace Sys2Proof.Machine

/-! ### The digit space -/

theorem Memory.read?_append_self (m : Memory) (v : Nibble) : (m.append v).read? m.length = some v := by
  simp [Memory.append, Memory.read?]

theorem Memory.read?_append_of_ne (m : Memory) (v : Nibble) (k : Nat) (h : k ≠ m.length) :
    (m.append v).read? k = m.read? k := by
  simp only [Memory.append, Memory.read?, List.getElem?_append]
  split
  · rfl
  · rw [List.getElem?_eq_none (by simp; omega), List.getElem?_eq_none (by omega)]

theorem Memory.read?_eq_none_iff (m : Memory) (k : Nat) : m.read? k = none ↔ m.length ≤ k := by
  simp [Memory.read?]

@[simp] theorem Memory.read?_empty (k : Nat) : Memory.empty.read? k = none := rfl

theorem Memory.wf_append (c : Config) (m : Memory) (v : Nibble) (h : Memory.wf c m = true)
    (hne : m.length ≠ c.nmax.val) : Memory.wf c (m.append v) = true := by
  simp [Memory.wf, Memory.append] at h ⊢
  omega

theorem Memory.wf_empty (c : Config) : Memory.wf c Memory.empty = true := by
  simp [Memory.wf, Memory.empty]

theorem State.reset_memory_wf : Memory.wf State.reset.cfg State.reset.buf = true := Memory.wf_empty _

theorem State.full_iff (s : State) : s.full = true ↔ s.len = s.cfg.nmax.val := by
  simp [State.full]

/-! ### Nibbles and Digits -/

@[simp] theorem nibbleOfDigit_toNat (d : Digit) : (nibbleOfDigit d).toNat = d.val := by
  simp [nibbleOfDigit]
  omega

@[simp] theorem digitOfNibble?_nibbleOfDigit (d : Digit) : digitOfNibble? (nibbleOfDigit d) = some d := by
  simp [digitOfNibble?]

theorem digitOfNibble?_eq_some_iff (v : Nibble) (d : Digit) : digitOfNibble? v = some d ↔ v = nibbleOfDigit d := by
  constructor
  · intro h
    unfold digitOfNibble? at h
    split at h
    · cases h
      simp [nibbleOfDigit]
    · cases h
  · rintro rfl
    simp

theorem digitOfNibble?_eq_none_iff (v : Nibble) : digitOfNibble? v = none ↔ 9 < v.toNat := by
  unfold digitOfNibble?
  split <;> simp <;> omega

/-- What `digitsOf?` answers when it answers: the sequence itself, nibble by nibble. -/
theorem digitsOf?_eq_some_iff (m : Memory) (ds : List Digit) : digitsOf? m = some ds ↔ m = ds.map nibbleOfDigit := by
  induction m generalizing ds with
  | nil => cases ds <;> simp [digitsOf?]
  | cons v vs ih =>
    simp only [digitsOf?]
    cases hv : digitOfNibble? v with
    | none =>
      simp only [reduceCtorEq, false_iff]
      rintro h
      cases ds with
      | nil => cases h
      | cons d ds =>
        rw [List.map_cons, List.cons.injEq] at h
        rw [h.1, digitOfNibble?_nibbleOfDigit] at hv
        cases hv
    | some d =>
      rw [digitOfNibble?_eq_some_iff] at hv
      subst hv
      cases hvs : digitsOf? vs with
      | none =>
        simp only [reduceCtorEq, false_iff]
        intro h
        cases ds with
        | nil => cases h
        | cons e es =>
          have := (ih es).2 (List.cons.inj h).2
          rw [this] at hvs
          cases hvs
      | some es =>
        have hes := (ih es).1 hvs
        subst hes
        constructor
        · rintro h
          cases h
          rfl
        · intro h
          cases ds with
          | nil => cases h
          | cons e fs =>
            have h1 := (List.cons.inj h).1
            have h2 := (ih fs).2 (List.cons.inj h).2
            rw [h2] at hvs
            cases hvs
            have : d = e := by
              have := congrArg digitOfNibble? h1
              simpa using this
            rw [this]

/-- `digitsOf?` answers nothing exactly when some cell is out of range (R162). -/
theorem digitsOf?_eq_none_iff (m : Memory) : digitsOf? m = none ↔ ∃ v ∈ m, 9 < v.toNat := by
  induction m with
  | nil => simp [digitsOf?]
  | cons v vs ih =>
    simp only [digitsOf?, List.mem_cons, exists_eq_or_imp]
    cases hv : digitOfNibble? v with
    | none => simpa using Or.inl ((digitOfNibble?_eq_none_iff v).1 hv)
    | some d =>
      have hle : ¬ 9 < v.toNat := by
        rw [← digitOfNibble?_eq_none_iff, hv]
        simp
      cases hvs : digitsOf? vs with
      | none => simpa [hle] using ih.1 hvs
      | some es =>
        rw [hvs] at ih
        simpa [hle] using ih

/-- Everything the operand check of GEN and VAL can answer (R120, R130, R165). -/
theorem State.sequence_cases (s : State) :
    (s.status.ovf = true ∧ s.sequence = .error .overflow) ∨
    (s.status.ovf = false ∧ s.buf = [] ∧ s.sequence = .error .emptyInput) ∨
    (s.status.ovf = false ∧ s.buf ≠ [] ∧ (∃ v ∈ s.buf, 9 < v.toNat) ∧ s.sequence = .error .invalidDigit) ∨
    (∃ ds, s.status.ovf = false ∧ ds ≠ [] ∧ s.buf = ds.map nibbleOfDigit ∧ s.sequence = .ok ds) := by
  unfold State.sequence State.len
  by_cases ho : s.status.ovf = true
  · exact .inl ⟨ho, by simp [ho]⟩
  · replace ho : s.status.ovf = false := by simpa using ho
    by_cases hl : s.buf = []
    · exact .inr (.inl ⟨ho, hl, by simp [ho, hl]⟩)
    · cases hd : digitsOf? s.buf with
      | none => exact .inr (.inr (.inl ⟨ho, hl, (digitsOf?_eq_none_iff _).1 hd, by simp [ho, hl]⟩))
      | some ds =>
        have hb := (digitsOf?_eq_some_iff _ _).1 hd
        refine .inr (.inr (.inr ⟨ds, ho, ?_, hb, by simp [ho, hl]⟩))
        rintro rfl
        exact hl hb

/-! ### The meanings -/

/-- Everything GEN can do (R120, R166). -/
theorem execGen_cases (s : State) :
    (∃ e, s.sequence = .error e ∧ execGen s = .next (s.raise e .gen)) ∨
    (∃ ds, s.sequence = .ok ds ∧ execGen s = .next (s.complete .gen (genResult ds))) := by
  unfold execGen
  cases h : s.sequence with
  | error e => exact .inl ⟨e, rfl, rfl⟩
  | ok ds => exact .inr ⟨ds, rfl, rfl⟩

/-- Everything VAL can do (R130, R166). -/
theorem execVal_cases (s : State) :
    (∃ e, s.sequence = .error e ∧ execVal s = .next (s.raise e .val)) ∨
    (∃ ds, s.sequence = .ok ds ∧ execVal s = .next (s.complete .val (valResult ds))) := by
  unfold execVal
  cases h : s.sequence with
  | error e => exact .inl ⟨e, rfl, rfl⟩
  | ok ds => exact .inr ⟨ds, rfl, rfl⟩

/-- Everything PUSH can do (R112). -/
theorem execPush_cases (v : Nibble) (s : State) :
    (s.len = s.cfg.nmax.val ∧ execPush v s = .next s.markOverflow) ∨
    (s.len ≠ s.cfg.nmax.val ∧ execPush v s = .next (s.appendCell v)) := by
  unfold execPush
  by_cases h : s.full = true
  · exact .inl ⟨s.full_iff.1 h, by simp [h]⟩
  · exact .inr ⟨fun e => h (s.full_iff.2 e), by simp [h]⟩

/-! ### The port -/

@[simp] theorem takeAction?_presentFirst (act : HostAction) (s : State) :
    takeAction? (presentFirst act s) = some (act, s) := rfl

theorem takeAction?_of_pending (s : State) (act : HostAction) (rest : List HostAction)
    (h : s.pending = act :: rest) : takeAction? s = some (act, { s with pending := rest }) := by
  simp [takeAction?, h]

theorem takeAction?_of_nil (s : State) (h : s.pending = []) : takeAction? s = none := by
  simp [takeAction?, h]

/-- Everything one host transaction can do: run a command, note a reserved word, do nothing, return a byte, or
reset (R53, R54, R180). -/
theorem transact_cases (act : HostAction) (s : State) :
    (∃ w i, act = .write addrCmd w ∧ decode w = .instr i ∧ transact act s = exec i s) ∨
    (∃ w b, act = .write addrCmd w ∧ decode w = .illegal b ∧ transact act s = .next s.markIllegal) ∨
    (∃ a b, act = .write a b ∧ a ≠ addrCmd ∧ transact act s = .next s) ∨
    (∃ a, act = .read a ∧ transact act s = .next { s with returned := s.returned ++ [hostReadByte a s] }) ∨
    (act = .reset ∧ transact act s = .next s.clearEngine) := by
  cases act with
  | write a b =>
    by_cases ha : a = addrCmd
    · subst ha
      cases hd : decode b with
      | instr i => exact .inl ⟨b, i, rfl, hd, by simp [transact, hostWrite, executeWord, hd]⟩
      | illegal c => exact .inr (.inl ⟨b, c, rfl, hd, by simp [transact, hostWrite, executeWord, hd, execIllegal]⟩)
    · exact .inr (.inr (.inl ⟨a, b, rfl, ha, by simp [transact, hostWrite, ha]⟩))
  | read a => exact .inr (.inr (.inr (.inl ⟨a, rfl, rfl⟩)))
  | reset => exact .inr (.inr (.inr (.inr ⟨rfl, rfl⟩)))

end Sys2Proof.Machine
end

