-- ==== Sys2Proof/Laws/PerInstr.lean ====
section
/-! SUPPORT. The per-instruction family of LAWS.json: a fact about each command as syntax. -/
namespace Sys2Proof.Laws.MatchesRow

/-- The command's word selects the command's row of the opcode map, and that row is in the map (R72, R81). -/
def Statement (i : Instr) : Prop := rowSelects (rowOf i) (encode i) = true ∧ rowOf i ∈ opcodeTable

theorem push (v : Nibble) : Statement (.push v) := by
  refine ⟨?_, by simp [rowOf, opcodeTable]⟩
  revert v
  decide

theorem gen : Statement .gen := ⟨by decide, by simp [rowOf, opcodeTable]⟩

theorem val : Statement .val := ⟨by decide, by simp [rowOf, opcodeTable]⟩

theorem clr : Statement .clr := ⟨by decide, by simp [rowOf, opcodeTable]⟩

end Sys2Proof.Laws.MatchesRow
end

