-- ==== Sys2Proof/Laws/Run.lean ====
section
/-! SUPPORT. Runs, one step at a time: a step is the transaction of the host's next action, and a run is a step and
then the rest of the run. -/
namespace Sys2Proof.Machine

/-- The step on a pending action is that action's transaction (R57, R61). -/
theorem step_of_pending (s : State) (act : HostAction) (rest : List HostAction) (h : s.pending = act :: rest) :
    step s = transact act { s with pending := rest } := by
  simp [step, takeAction?_of_pending s act rest h]

/-- The step with nothing pending (R11). -/
theorem step_of_nil (s : State) (h : s.pending = []) : step s = .next s := by
  simp [step, takeAction?_of_nil s h]

/-- A step that goes through, for any machine. -/
theorem run_succ_of_step (M : Host.Core) (k : Nat) (s t : M.State) (h : M.step s = .next t) :
    M.run (k + 1) s = M.run k t := by
  rw [Host.Core.run, h]

/-- A run whose first `j` steps go through, for any machine. -/
theorem run_add (M : Host.Core) (j k : Nat) (s t : M.State) (h : M.run j s = .next t) :
    M.run (j + k) s = M.run k t := by
  induction j generalizing s with
  | zero =>
    rw [Host.Core.run] at h
    cases h
    rw [Nat.zero_add]
  | succ j ih =>
    rw [Nat.add_right_comm]
    rw [Host.Core.run] at h ⊢
    split at h
    · rename_i u hu
      simpa only [hu] using ih u h
    · cases h
    · cases h

@[simp] theorem runSteps_zero (s : State) : runSteps 0 s = .next s := rfl

theorem runSteps_succ_of_step (k : Nat) (s t : State) (h : step s = .next t) : runSteps (k + 1) s = runSteps k t :=
  run_succ_of_step Sys2Proof.core k s t h

/-- A run of `j + k` steps whose first `j` go through is a run of `k` steps from where they end. -/
theorem runSteps_add (j k : Nat) (s t : State) (h : runSteps j s = .next t) : runSteps (j + k) s = runSteps k t :=
  run_add Sys2Proof.core j k s t h

end Sys2Proof.Machine
end

