-- ==== Sys2Proof/Tests/Slice0.lean ====
section
/-! SUPPORT. The model's own tests. Expected values are the spec's (spec/95_test_vectors.md, spec/30_encoding.md and
the examples of the command rules), never the model's own answers. After them, for every statement with hypotheses,
a witness that meets them. -/
namespace Sys2Proof.Tests
open Sys2Proof Sys2Proof.Machine

/-! ### Syntax and well-formedness -/

theorem test_line_push_16_refused : (Line.push 16).WellFormed = false := by decide
theorem test_line_byte_256_refused : (Line.byte 256).WellFormed = false := by decide
theorem test_line_wr_address_8_refused : (Line.wr 8 0).WellFormed = false := by decide
theorem test_line_wr_byte_256_refused : (Line.wr 0 256).WellFormed = false := by decide
theorem test_line_rd_address_8_refused : (Line.rd 8).WellFormed = false := by decide
theorem test_line_pushs_16_refused : (Line.pushs [1, 16]).WellFormed = false := by decide
theorem test_line_compute_16_refused : (Line.compute [16]).WellFormed = false := by decide
theorem test_line_isvalid_16_refused : (Line.isvalid [16]).WellFormed = false := by decide
theorem test_ill_formed_line_is_not_assembled : assemble? (.push 16) = none := by decide

/-! ### Decoding: words written out from the spec's encodings (R72, 95 section 3.6) -/

theorem test_decode_push_9 : decode 0b00011001#8 = .instr (.push 9#4) := by decide
theorem test_decode_push_15 : decode 0b00011111#8 = .instr (.push 15#4) := by decide
theorem test_decode_gen : decode 0b00100000#8 = .instr .gen := by decide
theorem test_decode_val : decode 0b00110000#8 = .instr .val := by decide
theorem test_decode_clr : decode 0b01000000#8 = .instr .clr := by decide
theorem test_decode_zero_is_reserved : decode 0x00#8 = .illegal 0x00#8 := by decide
theorem test_decode_gen_with_operand_is_reserved : decode 0x2F#8 = .illegal 0x2F#8 := by decide
theorem test_decode_opcode_8_is_reserved : decode 0x80#8 = .illegal 0x80#8 := by decide
theorem test_table_word_push_7 : decodeTableWord 8 0x17 = some (.push 7#4) := by decide
theorem test_table_word_reserved : decodeTableWord 8 0x41 = none := by decide

/-- R77: the text of a command and of a reserved word. -/
theorem test_asm_text : asmText (decode 0x1A#8) = "PUSH 10" ∧ asmText (decode 0xFF#8) = ".byte 0xFF" := by decide

/-! ### The tables and the pure functions (95 sections 2 and 3.1) -/

theorem test_mul_1_5 : mul 1 5 = 6 := by decide
theorem test_mul_5_1 : mul 5 1 = 9 := by decide
theorem test_perm_4_9 : perm 4 9 = 0 := by decide
theorem test_fstep_7_0_5 : fstep 7 0 5 = 2 := by decide

/-- T4b: catches a missing reversal, the schedule `i mod 8`, and exchanged table indices (95 section 5). -/
theorem test_gen_digit_12345 : genDigit [1, 2, 3, 4, 5] = 1 := by decide

/-- T4c. -/
theorem test_gen_digit_142857 : genDigit [1, 4, 2, 8, 5, 7] = 0 := by decide

/-- T5m and T5n: the row index wraps, row 0 at index 7 and row 1 again at index 8. -/
theorem test_gen_digit_wraps : genDigit [1, 1, 1, 1, 1, 1, 1, 1] = 1 ∧
    genDigit [1, 1, 1, 1, 1, 1, 1, 1, 1] = 9 := by decide +kernel

/-- T4d: a published valid string of 23 digits. -/
theorem test_long_string_is_valid :
    isValidSeq [8, 4, 7, 3, 6, 4, 3, 0, 9, 5, 4, 8, 3, 7, 2, 8, 4, 5, 6, 7, 8, 9, 2] = true := by decide +kernel

/-- R150: valid strings that differ in two digits, or in length. -/
theorem test_some_changes_go_undetected : isValidSeq [0, 4] = true ∧ isValidSeq [1, 5] = true ∧
    isValidSeq [0] = true ∧ isValidSeq [2, 3, 6, 3] = true := by decide

/-! ### One step at a time -/

/-- An engine with four cells (95 section 3.4 uses `NMAX = 4`). -/
def four : Config := { nmax := ⟨4, by decide⟩ }

/-- A small state: `NMAX = 4`, the buffer given, the registers as after Reset. -/
def small (buf : Memory) (pending : List HostAction := []) : State :=
  { State.resetFor four with buf := buf, pending := pending }

/-- The same with `OVF` set. -/
def smallOvf (buf : Memory) (pending : List HostAction := []) : State :=
  { small buf pending with status := { Status.reset with ovf := true } }

/-- What the host would read of the next state: `STATUS`, `RESULT`, `LEN`. -/
def readout (o : Host.Outcome State Fault Refusal) : Option (Byte × Byte × Nat) :=
  match o with
  | .next t => some (statusByte t.status, resultByte t.result, t.len)
  | .fault _ => none
  | .refused _ => none

/-- R112's example, the third PUSH. -/
theorem test_push_appends : exec (.push 6#4) (small [2#4, 3#4]) = .next (small [2#4, 3#4, 6#4]) := rfl

/-- P4: the fifth PUSH is dropped. -/
theorem test_push_into_full_buffer :
    readout (exec (.push 5#4) (small [1#4, 2#4, 3#4, 4#4])) = some (0x10#8, 0x0F#8, 4) := by decide

/-- R120's example. -/
theorem test_gen_236 : readout (exec .gen (small [2#4, 3#4, 6#4])) = some (0x01#8, 0x03#8, 3) := by decide

/-- T7n: Overflow beats InvalidDigit. -/
theorem test_gen_overflow_first :
    readout (exec .gen (smallOvf [1#4, 10#4, 3#4, 4#4])) = some (0x1D#8, 0x0F#8, 4) := by decide

/-- R130's example. -/
theorem test_val_2363 : readout (exec .val (small [2#4, 3#4, 6#4, 3#4])) = some (0x03#8, 0x1F#8, 4) := by decide

/-- T7b: the empty buffer is not valid. -/
theorem test_val_empty : readout (exec .val (small [])) = some (0x07#8, 0x0F#8, 0) := by decide

/-- T7d. -/
theorem test_val_bad_nibble : readout (exec .val (small [15#4])) = some (0x0B#8, 0x0F#8, 1) := by decide

/-- R111's example. -/
theorem test_clr : readout (exec .clr { small [1#4, 2#4, 3#4] with
    status := { Status.reset with done := true }, result := { valid := false, digit := 3#4 } }) =
    some (0x00#8, 0x0F#8, 0) := by decide

/-- T7q, R113's example: a reserved word sets `ILL` only. -/
theorem test_reserved_word : readout (step ((small []).withFetchWord 8 0x00)) = some (0x20#8, 0x0F#8, 0) := by decide

/-- The very next step after `withFetchWord` runs that command, from the reset state too. -/
theorem test_fetched_word_runs : step (State.reset.withFetchWord 8 0x17) = exec (.push 7#4) State.reset := rfl

/-- T8a: `RD 2` after Reset returns 0x0F and takes nothing else along. -/
theorem test_read_result_after_reset :
    step (small [] [.read addrResult]) = .next { small [] with returned := [0x0F#8] } := rfl

/-- T8d: a write to address 7 of GEN's byte is ignored. -/
theorem test_write_to_reserved_address : step (small [2#4] [.write 7#3 0x20#8]) = .next (small [2#4]) := rfl

/-- R79: the expansion of `COMPUTE 23`. -/
theorem test_compute_expands : assemble? (.compute [2, 3]) =
    some [.write 0#3 0x40#8, .write 0#3 0x12#8, .write 0#3 0x13#8, .write 0#3 0x20#8, .read 1#3, .read 2#3] := by
  decide

/-! ### Witnesses: for every statement with hypotheses, concrete values that meet them, each clause at a boundary -/

theorem witness_DecodeFollowsItsRule :
    (0x10#8).toNat / 16 = 1 ∧ (0x1F#8).toNat / 16 = 1 ∧ (0x20#8).toNat = 0x20 ∧ (0x30#8).toNat = 0x30 ∧
    (0x40#8).toNat = 0x40 ∧
    ((0x0F#8).toNat / 16 ≠ 1 ∧ (0x0F#8).toNat ≠ 0x20 ∧ (0x0F#8).toNat ≠ 0x30 ∧ (0x0F#8).toNat ≠ 0x40) ∧
    ((0x21#8).toNat / 16 ≠ 1 ∧ (0x21#8).toNat ≠ 0x20 ∧ (0x21#8).toNat ≠ 0x30 ∧ (0x21#8).toNat ≠ 0x40) := by decide

theorem witness_OpcodeMapSelectsTheDecodedRow :
    decode 0x1F#8 = .instr (.push 15#4) ∧ decode 0x41#8 = .illegal 0x41#8 := by decide

theorem witness_ReservedWordsOnlySetIll : decode 0x0F#8 = .illegal 0x0F#8 ∧ decode 0x50#8 = .illegal 0x50#8 := by
  decide

theorem witness_ScriptLinesExpandAsStated : 15 ≤ 15 ∧ ∀ v ∈ [0, 15], v ≤ 15 := by decide

theorem witness_StepRunsTheDecodedCommand :
    (small [] [.write addrCmd 0x1F#8, .reset]).pending = .write addrCmd 0x1F#8 :: [.reset] ∧
    decode 0x1F#8 = .instr (.push 15#4) ∧ (Instr.push 15#4).WellFormed = true := by decide

theorem witness_HostWriteFollowsItsRule :
    (small [] [.write 0#3 0x20#8]).pending = .write 0#3 0x20#8 :: [] ∧ decode 0x20#8 = .instr .gen ∧
    (small [] [.write 0#3 0x21#8]).pending = .write 0#3 0x21#8 :: [] ∧ decode 0x21#8 = .illegal 0x21#8 ∧
    (small [] [.write 1#3 0x20#8]).pending = .write 1#3 0x20#8 :: [] ∧ (1#3 : Addr) ≠ 0#3 ∧
    (small [] [.write 7#3 0x20#8]).pending = .write 7#3 0x20#8 :: [] ∧ (7#3 : Addr) ≠ 0#3 := by decide

theorem witness_HostWriteFollowsItsRule_next :
    step (small [] [.write 7#3 0x20#8]) = .next (small []) := rfl

theorem witness_HostReadFollowsItsRule :
    (small [1#4, 2#4, 3#4, 4#4] [.read 3#3]).pending = .read 3#3 :: [] ∧
    (small [1#4, 2#4, 3#4, 4#4]).len ≤ (small [1#4, 2#4, 3#4, 4#4]).cfg.nmax.val ∧
    (small [] [.read 4#3]).pending = .read 4#3 :: [] ∧ 4 ≤ (4#3).toNat ∧ 4 ≤ (7#3).toNat := by decide

theorem witness_ReservedAddressesDoNothing :
    4 ≤ (4#3).toNat ∧ (small [] [.read 4#3]).pending = .read 4#3 :: [] ∧
    4 ≤ (7#3).toNat ∧ (small [] [.write 7#3 0x20#8]).pending = .write 7#3 0x20#8 :: [] := by decide

theorem witness_ResetActionGivesTheResetState :
    (smallOvf [1#4, 2#4, 3#4, 4#4] [.reset, .read 1#3]).pending = .reset :: [.read 1#3] := by decide

theorem witness_ResetStateHoldsTheSpecValues : (smallOvf [1#4, 2#4, 3#4, 4#4]).cfg = four := by decide

theorem witness_IdleEngineStaysAsItIs : (small [1#4]).pending = [] := by decide

theorem witness_EachActionCompletesInOneStep : (small [1#4] [.read 2#3]).pending = .read 2#3 :: [] := by decide

/-- The full buffer, and the buffer with one free cell. -/
theorem witness_PushFollowsItsRule_operation :
    (small [1#4, 2#4, 3#4, 4#4]).buf.length = (small [1#4, 2#4, 3#4, 4#4]).cfg.nmax.val ∧
    (small [1#4, 2#4, 3#4]).buf.length ≠ (small [1#4, 2#4, 3#4]).cfg.nmax.val := by decide

/-- The state's next action is a PUSH of 1, which clears nothing. -/
theorem push_next_clears_nothing (s : State) (h : s.pending = [.write addrCmd 0x11#8]) : noClearWithin 1 s := by
  intro j u hj hu
  obtain rfl : j = 0 := by omega
  rw [runSteps_zero] at hu
  cases hu
  simp [State.nextClears, State.nextCommand?, h, show decode 0x11#8 = .instr (.push 1#4) by decide]

/-- A stored bad nibble: PUSH 10, one more PUSH, then GEN. -/
theorem witness_PushFollowsItsRule_stored :
    exec (.push 10#4) (small [] [.write addrCmd 0x11#8]) = .next (small [10#4] [.write addrCmd 0x11#8]) ∧
    noClearWithin 1 (small [10#4] [.write addrCmd 0x11#8]) ∧
    runSteps 1 (small [10#4] [.write addrCmd 0x11#8]) = .next (small [10#4, 1#4]) ∧
    exec .gen (small [10#4, 1#4]) = .next ((small [10#4, 1#4]).raise .invalidDigit .gen) ∧
    (small []).buf.length ≠ (small []).cfg.nmax.val ∧ 9 < (10#4).toNat :=
  ⟨rfl, push_next_clears_nothing _ rfl, rfl, rfl, by decide, by decide⟩

/-- A dropped nibble: PUSH 10 into the full buffer, one more PUSH, then VAL. -/
theorem witness_PushFollowsItsRule_dropped :
    exec (.push 10#4) (small [1#4, 2#4, 3#4, 4#4] [.write addrCmd 0x11#8]) =
      .next (smallOvf [1#4, 2#4, 3#4, 4#4] [.write addrCmd 0x11#8]) ∧
    noClearWithin 1 (smallOvf [1#4, 2#4, 3#4, 4#4] [.write addrCmd 0x11#8]) ∧
    runSteps 1 (smallOvf [1#4, 2#4, 3#4, 4#4] [.write addrCmd 0x11#8]) = .next (smallOvf [1#4, 2#4, 3#4, 4#4]) ∧
    exec .val (smallOvf [1#4, 2#4, 3#4, 4#4]) = .next ((smallOvf [1#4, 2#4, 3#4, 4#4]).raise .overflow .val) ∧
    (small [1#4, 2#4, 3#4, 4#4]).buf.length = (small [1#4, 2#4, 3#4, 4#4]).cfg.nmax.val :=
  ⟨rfl, push_next_clears_nothing _ rfl, rfl, rfl, by decide⟩

theorem witness_PushFrame :
    exec (.push 9#4) (small [1#4, 2#4, 3#4]) = .next (small [1#4, 2#4, 3#4, 9#4]) ∧
    (small [1#4, 2#4, 3#4]).full = false ∧ 2 ≠ (small [1#4, 2#4, 3#4]).len ∧
    exec (.push 9#4) (small [1#4, 2#4, 3#4, 4#4]) = .next (smallOvf [1#4, 2#4, 3#4, 4#4]) ∧
    (small [1#4, 2#4, 3#4, 4#4]).full = true := ⟨rfl, rfl, by decide, rfl, rfl⟩

theorem witness_ClrRestoresTheResetState :
    Instr.gen ≠ .clr ∧ exec .gen (smallOvf [1#4]) = .next ((smallOvf [1#4]).raise .overflow .gen) ∧
    (smallOvf [1#4]).status.ovf = true := ⟨by decide, rfl, rfl⟩

theorem witness_ClrFrame : exec .clr (smallOvf [1#4, 2#4]) = .next (small []) := rfl

/-- Four PUSHes that fill the buffer exactly. -/
theorem witness_PushesAppendInOrder :
    (small [] (pushesActions [1#4, 2#4, 3#4, 4#4])).pending = pushesActions [1#4, 2#4, 3#4, 4#4] ++ [] ∧
    (small []).len + [1#4, 2#4, 3#4, 4#4].length ≤ (small []).cfg.nmax.val := by decide

/-- The live cell `k` that holds a bad nibble. -/
theorem holdsBadNibble_of_cell (s : State) (k : Nat) (v : Nibble) (h : s.buf.read? k = some v) (h9 : 9 < v.toNat) :
    s.holdsBadNibble := ⟨k, v, h, h9⟩

/-- A buffer of Digits, the largest among them, holds no bad nibble. -/
theorem small_9_0_holds_no_bad_nibble : ¬ (small [9#4, 0#4]).holdsBadNibble := by
  rintro ⟨k, v, h, h9⟩
  match k, h with
  | 0, h => cases h; exact absurd h9 (by decide)
  | 1, h => cases h; exact absurd h9 (by decide)
  | k + 2, h => cases h

theorem witness_GenFollowsItsRule :
    (smallOvf [1#4]).status.ovf = true ∧ ((small []).status.ovf = false ∧ (small []).len = 0) ∧
    ((small [10#4]).status.ovf = false ∧ (small [10#4]).holdsBadNibble) ∧
    ((small [9#4, 0#4]).status.ovf = false ∧ (small [9#4, 0#4]).len ≠ 0 ∧ ¬ (small [9#4, 0#4]).holdsBadNibble) :=
  ⟨rfl, ⟨rfl, rfl⟩, ⟨rfl, holdsBadNibble_of_cell _ 0 10#4 rfl (by decide)⟩,
    ⟨rfl, by decide, small_9_0_holds_no_bad_nibble⟩⟩

theorem witness_ValFollowsItsRule :
    (smallOvf [1#4]).status.ovf = true ∧ ((small []).status.ovf = false ∧ (small []).len = 0) ∧
    ((small [1#4, 15#4]).status.ovf = false ∧ (small [1#4, 15#4]).holdsBadNibble) ∧
    ((small [9#4, 0#4]).status.ovf = false ∧ (small [9#4, 0#4]).len ≠ 0 ∧ ¬ (small [9#4, 0#4]).holdsBadNibble) :=
  ⟨rfl, ⟨rfl, rfl⟩, ⟨rfl, holdsBadNibble_of_cell _ 1 15#4 rfl (by decide)⟩,
    ⟨rfl, by decide, small_9_0_holds_no_bad_nibble⟩⟩

theorem witness_GenAndValFrame :
    exec .gen (small [0#4]) = .next ((small [0#4]).complete .gen { valid := false, digit := 4#4 }) ∧
    exec .val (small [0#4]) = .next ((small [0#4]).complete .val { valid := true, digit := 15#4 }) := ⟨rfl, rfl⟩

/-- Two states that agree on the live cells and `OVF` and differ in the result and in `ILL`. -/
theorem witness_GenIsPure :
    (small [0#4]).buf = ((small [0#4]).complete .val { valid := true, digit := 15#4 }).markIllegal.buf ∧
    (small [0#4]).status.ovf =
      ((small [0#4]).complete .val { valid := true, digit := 15#4 }).markIllegal.status.ovf ∧
    exec .gen (small [0#4]) = .next ((small [0#4]).complete .gen { valid := false, digit := 4#4 }) := ⟨rfl, rfl, rfl⟩

theorem witness_ValIsPure :
    (small [0#4]).buf = ((small [0#4]).complete .gen { valid := false, digit := 4#4 }).markIllegal.buf ∧
    (small [0#4]).status.ovf =
      ((small [0#4]).complete .gen { valid := false, digit := 4#4 }).markIllegal.status.ovf ∧
    exec .val (small [0#4]) = .next ((small [0#4]).complete .val { valid := true, digit := 15#4 }) := ⟨rfl, rfl, rfl⟩

theorem witness_EmptyBufferRaisesEmptyInput :
    (small []).status.ovf = false ∧ (small []).len = 0 ∧ exec .clr (smallOvf [1#4]) = .next (small []) :=
  ⟨rfl, rfl, rfl⟩

theorem witness_BadNibbleRaisesInvalidDigit :
    (small [10#4] [.write addrCmd 0x11#8]).status.ovf = false ∧
    (small [10#4] [.write addrCmd 0x11#8]).holdsBadNibble ∧
    noClearWithin 1 (small [10#4] [.write addrCmd 0x11#8]) ∧
    runSteps 1 (small [10#4] [.write addrCmd 0x11#8]) = .next (small [10#4, 1#4]) :=
  ⟨rfl, holdsBadNibble_of_cell _ 0 10#4 rfl (by decide), push_next_clears_nothing _ rfl, rfl⟩

theorem witness_DroppedDigitRaisesOverflow :
    (smallOvf [1#4, 2#4, 3#4, 4#4] [.write addrCmd 0x11#8]).status.ovf = true ∧
    (small [1#4, 2#4, 3#4, 4#4]).len = (small [1#4, 2#4, 3#4, 4#4]).cfg.nmax.val ∧
    exec (.push 5#4) (small [1#4, 2#4, 3#4, 4#4]) = .next (smallOvf [1#4, 2#4, 3#4, 4#4]) ∧
    noClearWithin 1 (smallOvf [1#4, 2#4, 3#4, 4#4] [.write addrCmd 0x11#8]) ∧
    runSteps 1 (smallOvf [1#4, 2#4, 3#4, 4#4] [.write addrCmd 0x11#8]) = .next (smallOvf [1#4, 2#4, 3#4, 4#4]) :=
  ⟨rfl, rfl, rfl, push_next_clears_nothing _ rfl, rfl⟩

theorem witness_ErrorsAreReportedByPriority :
    exec .gen (smallOvf [10#4]) = .next ((smallOvf [10#4]).raise .overflow .gen) ∧
    exec .gen (small []) = .next ((small []).raise .emptyInput .gen) ∧
    (exec .val (small [10#4]) = .next ((small [10#4]).raise .invalidDigit .val) ∧ (small [10#4]).len ≠ 0 ∧
      (small [10#4]).holdsBadNibble) ∧
    (exec .gen (small [9#4, 0#4]) = .next ((small [9#4, 0#4]).complete .gen (genResult [9, 0])) ∧
      ¬ (small [9#4, 0#4]).holdsBadNibble) ∧
    (smallOvf [1#4, 2#4, 3#4, 4#4]).Inv ∧ (smallOvf [1#4, 2#4, 3#4, 4#4]).status.ovf = true :=
  ⟨rfl, rfl, ⟨rfl, by decide, holdsBadNibble_of_cell _ 0 10#4 rfl (by decide)⟩,
    ⟨rfl, small_9_0_holds_no_bad_nibble⟩, by decide, rfl⟩

theorem witness_ErrorEntryWritesStatusAndResultOnly :
    ((small []).raise .emptyInput .gen).status.err = some .emptyInput ∧
    exec .gen (small []) = .next ((small []).raise .emptyInput .gen) ∧
    ((small [10#4]).raise .invalidDigit .val).status.err = some .invalidDigit ∧
    exec .val (small [10#4]) = .next ((small [10#4]).raise .invalidDigit .val) := ⟨rfl, rfl, rfl, rfl⟩

theorem witness_ErrorsLeaveNoPartialResult :
    exec .gen (small []) = .next ((small []).raise .emptyInput .gen) ∧
    errCode ((small []).raise .emptyInput .gen).status.err ≠ 0#2 ∧
    exec .val (small [0#4]) = .next ((small [0#4]).complete .val { valid := true, digit := 15#4 }) ∧
    errCode ((small [0#4]).complete .val { valid := true, digit := 15#4 }).status.err = 0#2 :=
  ⟨rfl, by decide, rfl, rfl⟩

/-- A CLR word and a Reset both clear. -/
theorem clr_and_reset_clear : (smallOvf [1#4] [.write addrCmd 0x40#8]).nextClears ∧
    (smallOvf [1#4] [.reset]).nextClears := ⟨.inl (by decide), .inr ⟨[], rfl⟩⟩

/-- A read clears nothing and writes no command. -/
theorem read_clears_nothing : ¬ (smallOvf [1#4] [.read 1#3]).nextClears ∧
    (smallOvf [1#4] [.read 1#3]).nextCommand? = none := by
  simp [State.nextClears, State.nextCommand?, smallOvf, small]

theorem witness_OvfChangesOnlyAsStated :
    (smallOvf [1#4] [.reset]).nextClears ∧ step (smallOvf [1#4] [.reset]) = .next (small []) ∧
    ((small [1#4, 2#4, 3#4, 4#4] [.write addrCmd 0x15#8]).nextCommand? = some (.instr (.push 5#4)) ∧
      (small [1#4, 2#4, 3#4, 4#4]).len = (small [1#4, 2#4, 3#4, 4#4]).cfg.nmax.val) ∧
    step (small [1#4, 2#4, 3#4, 4#4] [.write addrCmd 0x15#8]) = .next (smallOvf [1#4, 2#4, 3#4, 4#4]) ∧
    (¬ (smallOvf [1#4] [.read 1#3]).nextClears ∧ (smallOvf [1#4] [.read 1#3]).nextCommand? = none) ∧
    step (smallOvf [1#4] [.read 1#3]) = .next { smallOvf [1#4] with returned := [0x10#8] } ∧
    exec .gen (smallOvf [1#4]) = .next ((smallOvf [1#4]).raise .overflow .gen) :=
  ⟨clr_and_reset_clear.2, rfl, ⟨by decide, rfl⟩, rfl, read_clears_nothing, rfl, rfl⟩

theorem witness_IllChangesOnlyAsStated :
    (smallOvf [1#4] [.write addrCmd 0x40#8]).nextClears ∧
    step (smallOvf [1#4] [.write addrCmd 0x40#8]) = .next (small []) ∧
    (small [] [.write addrCmd 0x00#8]).nextCommand? = some (.illegal 0x00#8) ∧
    step (small [] [.write addrCmd 0x00#8]) = .next (small []).markIllegal ∧
    (¬ (smallOvf [1#4] [.read 1#3]).nextClears ∧ (smallOvf [1#4] [.read 1#3]).nextCommand? = none) ∧
    Instr.val ≠ .clr ∧
    exec .val (small [0#4]) = .next ((small [0#4]).complete .val { valid := true, digit := 15#4 }) :=
  ⟨clr_and_reset_clear.1, rfl, by decide, rfl, read_clears_nothing, by decide, rfl⟩

theorem witness_LenChangesOnlyAsStated :
    ((small [1#4, 2#4, 3#4] [.write addrCmd 0x19#8]).Inv ∧
      step (small [1#4, 2#4, 3#4] [.write addrCmd 0x19#8]) = .next (small [1#4, 2#4, 3#4, 9#4]) ∧
      (small [1#4, 2#4, 3#4] [.write addrCmd 0x19#8]).nextCommand? = some (.instr (.push 9#4)) ∧
      (small [1#4, 2#4, 3#4]).len < (small [1#4, 2#4, 3#4]).cfg.nmax.val) ∧
    ((small [1#4] [.reset]).Inv ∧ (small [1#4] [.reset]).nextClears ∧
      step (small [1#4] [.reset]) = .next (small [])) ∧
    ((small [1#4]).Inv ∧ ¬ (small [1#4]).nextClears ∧ (small [1#4]).nextCommand? = none) :=
  ⟨⟨by decide, rfl, by decide, by decide⟩, ⟨by decide, .inr ⟨[], rfl⟩, rfl⟩,
    ⟨by decide, by simp [State.nextClears, State.nextCommand?, small], rfl⟩⟩

theorem witness_ResultFieldsChangeOnlyAsStated :
    ((smallOvf [1#4] [.reset]).nextClears ∧ step (smallOvf [1#4] [.reset]) = .next (small [])) ∧
    ((small [] [.write addrCmd 0x20#8]).nextCommand? = some (.instr .gen) ∧
      step (small [] [.write addrCmd 0x20#8]) = .next ((small []).raise .emptyInput .gen)) ∧
    ((small [] [.write addrCmd 0x30#8]).nextCommand? = some (.instr .val) ∧
      step (small [] [.write addrCmd 0x30#8]) = .next ((small []).raise .emptyInput .val)) ∧
    (¬ (smallOvf [1#4] [.read 1#3]).nextClears ∧ (smallOvf [1#4] [.read 1#3]).nextCommand? = none) :=
  ⟨⟨clr_and_reset_clear.2, rfl⟩, ⟨by decide, rfl⟩, ⟨by decide, rfl⟩, read_clears_nothing⟩

theorem witness_PushLeavesAStaleResult :
    exec (.push 3#4) ((small [2#4]).complete .gen { valid := false, digit := 7#4 }) =
      .next ((small [2#4, 3#4]).complete .gen { valid := false, digit := 7#4 }) ∧
    (small [2#4]).len ≠ (small [2#4]).cfg.nmax.val ∧ exec .clr (small [2#4]) = .next (small []) :=
  ⟨rfl, by decide, rfl⟩

theorem witness_OnlyCommandsHaveEffects :
    ((small [1#4] [.read 3#3]).pending = .read 3#3 :: [] ∧
      step (small [1#4] [.read 3#3]) = .next { small [1#4] with returned := [0x01#8] }) ∧
    ((1#3 : Addr) ≠ 0#3 ∧ (small [] [.write 1#3 0xFF#8]).pending = .write 1#3 0xFF#8 :: []) ∧
    ((small [1#4, 2#4]).len + 2 ≤ (small [1#4, 2#4]).cfg.nmax.val ∧
      exec (.push 5#4) (small [1#4, 2#4]) = .next (small [1#4, 2#4, 5#4]) ∧
      exec (.push 5#4) (small [1#4, 2#4, 5#4]) = .next (small [1#4, 2#4, 5#4, 5#4])) ∧
    exec .clr (small [1#4]) = .next (small []) :=
  ⟨⟨rfl, rfl⟩, ⟨by decide, rfl⟩, ⟨by decide, rfl, rfl⟩, rfl⟩

theorem witness_StepKeepsTheInvariants :
    (small [1#4, 2#4, 3#4, 4#4] [.write addrCmd 0x15#8]).Inv ∧
    step (small [1#4, 2#4, 3#4, 4#4] [.write addrCmd 0x15#8]) = .next (smallOvf [1#4, 2#4, 3#4, 4#4]) :=
  ⟨by decide, rfl⟩

theorem witness_ReachableStatesMeetTheInvariants : ((small []).raise .emptyInput .val).Reachable :=
  ⟨four, [.write addrCmd 0x30#8], 1, rfl⟩

/-- A successful GEN, a successful VAL, a failed GEN, a Reset, a read, and a reachable state. -/
theorem witness_ResultTakesOnlyTheListedBytes :
    ((small [7#4] [.write addrCmd 0x20#8]).nextCommand? = some (.instr .gen) ∧
      step (small [7#4] [.write addrCmd 0x20#8]) =
        .next ((small [7#4]).complete .gen { valid := false, digit := 0#4 })) ∧
    ((small [0#4] [.write addrCmd 0x30#8]).nextCommand? = some (.instr .val) ∧
      step (small [0#4] [.write addrCmd 0x30#8]) =
        .next ((small [0#4]).complete .val { valid := true, digit := 15#4 })) ∧
    ((small [] [.write addrCmd 0x20#8]).nextCommand? = some (.instr .gen) ∧
      step (small [] [.write addrCmd 0x20#8]) = .next ((small []).raise .emptyInput .gen) ∧
      ((small []).raise .emptyInput .gen).status.err ≠ none) ∧
    ((smallOvf [1#4] [.reset]).nextClears ∧ step (smallOvf [1#4] [.reset]) = .next (small [])) ∧
    (¬ (smallOvf [1#4] [.read 1#3]).nextClears ∧ (smallOvf [1#4] [.read 1#3]).nextCommand? = none ∧
      step (smallOvf [1#4] [.read 1#3]) = .next { smallOvf [1#4] with returned := [0x10#8] }) ∧
    ((small []).raise .emptyInput .val).Reachable :=
  ⟨⟨by decide, rfl⟩, ⟨by decide, rfl⟩, ⟨by decide, rfl, by decide⟩, ⟨clr_and_reset_clear.2, rfl⟩,
    ⟨read_clears_nothing.1, read_clears_nothing.2, rfl⟩, witness_ReachableStatesMeetTheInvariants⟩

/-- A GEN that has its operand after an error, an `EmptyInput`, a failed command, and steps that clear and do not. -/
theorem witness_RecoveryFollowsItsRule :
    (((small [9#4, 0#4]).status.ovf = false ∧ (small [9#4, 0#4]).len ≠ 0 ∧
      ¬ (small [9#4, 0#4]).holdsBadNibble)) ∧
    (exec .val (small []) = .next ((small []).raise .emptyInput .val) ∧
      ((small []).raise .emptyInput .val).status.err = some .emptyInput) ∧
    (exec .clr (smallOvf [10#4]) = .next (small []) ∧ small [] = hostReset (smallOvf [10#4])) ∧
    (exec .gen (small [10#4]) = .next ((small [10#4]).raise .invalidDigit .gen) ∧
      ((small [10#4]).raise .invalidDigit .gen).status.err ≠ none) ∧
    (Instr.push 9#4 ≠ .clr ∧ exec (.push 9#4) (small [1#4, 2#4, 3#4]) = .next (small [1#4, 2#4, 3#4, 9#4])) ∧
    (¬ (smallOvf [1#4] [.read 1#3]).nextClears ∧ (smallOvf [1#4] [.read 1#3]).status.ovf = true ∧
      step (smallOvf [1#4] [.read 1#3]) = .next { smallOvf [1#4] with returned := [0x10#8] }) ∧
    ((smallOvf [1#4] [.reset]).nextClears ∧ step (smallOvf [1#4] [.reset]) = .next (small [])) :=
  ⟨⟨rfl, by decide, small_9_0_holds_no_bad_nibble⟩, ⟨rfl, rfl⟩, ⟨rfl, rfl⟩, ⟨rfl, by decide⟩,
    ⟨by decide, rfl⟩, ⟨read_clears_nothing.1, rfl, rfl⟩, ⟨clr_and_reset_clear.2, rfl⟩⟩

theorem witness_MultiplicationTableIsAGroup : mul 5 1 = mul 5 1 ∧ mul 1 5 = mul 1 5 := ⟨rfl, rfl⟩

theorem witness_InverseTableInverts :
    mul 1 4 = 0 ∧ inv 9 = inv 9 ∧ (1 ≤ (1 : Digit).val ∧ (4 : Digit).val ≤ 4) ∧ 5 ≤ (5 : Digit).val := by decide

theorem witness_PermutationRowsArePowers : perm 7 9 = perm 7 9 ∧ (3 : Digit) ≠ 6 := by decide

theorem witness_FoldIsTheIndexedProduct : 2 < ([2, 3, 6] : List Digit).length := by decide

theorem witness_CheckDigitRoundTrip : ([0] : List Digit) ≠ [] := by decide

/-- The check digit's own position is the last one. -/
theorem witness_SingleDigitErrorsAreDetected :
    3 < ([2, 3, 6, 3] : List Digit).length ∧ isValidSeq [2, 3, 6, 3] = true ∧ (4 : Digit) ≠ 3 := by decide

theorem witness_AdjacentTranspositionsAreDetected :
    2 + 1 < ([2, 3, 6, 3] : List Digit).length ∧ isValidSeq [2, 3, 6, 3] = true ∧ (6 : Digit) ≠ 3 := by decide

theorem witness_CheckDigitIsUnique : ([2, 3, 6] : List Digit) ≠ [] := by decide

/-- Each row of the outcome table: too long by one, empty, a bad nibble in a full buffer, Digits in a full buffer. -/
theorem witness_ComputeReturnsTheStatedBytes :
    (smallOvf [1#4] (computeActions [10#4, 2#4, 3#4, 4#4])).pending = computeActions [10#4, 2#4, 3#4, 4#4] ++ [] ∧
    four.nmax.val < [1#4, 2#4, 3#4, 4#4, 5#4].length ∧
    ([10#4, 2#4, 3#4, 4#4].length ≤ four.nmax.val ∧ ∃ v ∈ [10#4, 2#4, 3#4, 4#4], 9 < v.toNat) ∧
    ([1#4, 2#4, 3#4, 4#4].length ≤ four.nmax.val ∧
      [1#4, 2#4, 3#4, 4#4] = ([1, 2, 3, 4] : List Digit).map nibbleOfDigit) ∧
    (small [] (computeActions [1#4]).tail).pending = (computeActions [1#4]).tail ++ [] ∧
    small [] (computeActions [1#4]).tail = { State.resetFor four with pending := (computeActions [1#4]).tail } := by
  decide

theorem witness_IsvalidReturnsTheStatedBytes :
    (smallOvf [1#4] (isvalidActions [10#4, 2#4, 3#4, 4#4])).pending = isvalidActions [10#4, 2#4, 3#4, 4#4] ++ [] ∧
    four.nmax.val < [1#4, 2#4, 3#4, 4#4, 5#4].length ∧
    ([10#4, 2#4, 3#4, 4#4].length ≤ four.nmax.val ∧ ∃ v ∈ [10#4, 2#4, 3#4, 4#4], 9 < v.toNat) ∧
    ([2#4, 3#4, 6#4, 3#4].length ≤ four.nmax.val ∧
      [2#4, 3#4, 6#4, 3#4] = ([2, 3, 6, 3] : List Digit).map nibbleOfDigit) := by decide

/-- The payload and its check digit fill the buffer exactly. -/
theorem witness_GenerateThenVerifySucceeds :
    ([2, 3, 6] : List Digit) ≠ [] ∧ ([2, 3, 6] : List Digit).length + 1 ≤ four.nmax.val ∧
    (small [] (computeActions (([2, 3, 6] : List Digit).map nibbleOfDigit) ++
      [commandAction (.push (nibbleOfDigit (genDigit [2, 3, 6]))), commandAction .val, .read addrStatus,
       .read addrResult] ++ [])).pending =
      computeActions (([2, 3, 6] : List Digit).map nibbleOfDigit) ++
      [commandAction (.push (nibbleOfDigit (genDigit [2, 3, 6]))), commandAction .val, .read addrStatus,
       .read addrResult] ++ [] := ⟨by decide, by decide, rfl⟩

theorem witness_RepliesDependOnTheSequenceOnly :
    (small [] (computeActions [2#4])).cfg = (smallOvf [1#4] (computeActions [2#4])).cfg ∧
    (small [] (computeActions [2#4])).pending = computeActions [2#4] ++ [] ∧
    (smallOvf [1#4] (computeActions [2#4])).pending = computeActions [2#4] ++ [] := by decide

end Sys2Proof.Tests
end

section
/-! The rules of spec/10_state.md. First what one step can do, said once; then the bytes of `STATUS` and `RESULT`, the
invariants of R34 operation by operation, and induction over reachable states; then the statements. -/
namespace Sys2Proof.Machine

/-! ### The commands, as equations -/

@[simp] theorem exec_push (v : Nibble) (s : State) : exec (.push v) s = execPush v s := rfl
@[simp] theorem exec_gen (s : State) : exec .gen s = execGen s := rfl
@[simp] theorem exec_val (s : State) : exec .val s = execVal s := rfl
@[simp] theorem exec_clr (s : State) : exec .clr s = .next s.clearEngine := rfl

theorem execPush_of_full (v : Nibble) {s : State} (h : s.len = s.cfg.nmax.val) :
    execPush v s = .next s.markOverflow := by
  simp [execPush, s.full_iff.2 h]

theorem execPush_of_not_full (v : Nibble) {s : State} (h : s.len ≠ s.cfg.nmax.val) :
    execPush v s = .next (s.appendCell v) := by
  simp [execPush, s.full_iff, h]

/-- The command that `STATUS.OP` records: GEN and VAL differ in this and in their result only. -/
def Op.instr : Op → Instr
  | .gen => .gen
  | .val => .val

/-- The result of a successful GEN or VAL on the sequence `ds`. -/
def Op.resultOf : Op → List Digit → Result
  | .gen => genResult
  | .val => valResult

@[simp] theorem Op.instr_gen : Op.gen.instr = .gen := rfl
@[simp] theorem Op.instr_val : Op.val.instr = .val := rfl
@[simp] theorem Op.resultOf_gen (ds : List Digit) : Op.gen.resultOf ds = genResult ds := rfl
@[simp] theorem Op.resultOf_val (ds : List Digit) : Op.val.resultOf ds = valResult ds := rfl

theorem Op.instr_ne_push (op : Op) (v : Nibble) : op.instr ≠ .push v := by cases op <;> simp
theorem Op.instr_ne_clr (op : Op) : op.instr ≠ .clr := by cases op <;> simp

/-- A GEN or VAL whose operand check fails (R166). -/
theorem exec_op_of_error (op : Op) {s : State} {e : ErrorCond} (h : s.sequence = .error e) :
    exec op.instr s = .next (s.raise e op) := by
  cases op <;> simp [execGen, execVal, h]

/-- A GEN or VAL that has its operand (R120, R130). -/
theorem exec_op_of_ok (op : Op) {s : State} {ds : List Digit} (h : s.sequence = .ok ds) :
    exec op.instr s = .next (s.complete op (op.resultOf ds)) := by
  cases op <;> simp [execGen, execVal, h]

/-! ### The operand check -/

theorem State.sequence_of_ovf {s : State} (h : s.status.ovf = true) : s.sequence = .error .overflow := by
  simp [State.sequence, h]

theorem State.ovf_of_sequence_overflow {s : State} (h : s.sequence = .error .overflow) : s.status.ovf = true := by
  rcases s.sequence_cases with ⟨ho, -⟩ | ⟨-, -, hs⟩ | ⟨-, -, -, hs⟩ | ⟨ds, -, -, -, hs⟩
  · exact ho
  all_goals simp [hs] at h

/-- The operand that GEN and VAL get is the buffer, Digit by Digit, and it is not empty. -/
theorem State.buf_of_sequence_ok {s : State} {ds : List Digit} (h : s.sequence = .ok ds) :
    ds ≠ [] ∧ s.buf = ds.map nibbleOfDigit := by
  rcases s.sequence_cases with ⟨-, hs⟩ | ⟨-, -, hs⟩ | ⟨-, -, -, hs⟩ | ⟨es, -, hne, hb, hs⟩
  case inr.inr.inr =>
    obtain rfl : es = ds := by simpa [hs] using h
    exact ⟨hne, hb⟩
  all_goals simp [hs] at h

/-! ### What one step can do -/

/-- The host's next action taken off the list of those pending, and nothing done yet; `s` itself if there is none. -/
def State.actionTaken (s : State) : State := { s with pending := s.pending.tail }

section ActionTaken
variable (s : State)

@[simp] theorem State.actionTaken_cfg : s.actionTaken.cfg = s.cfg := rfl
@[simp] theorem State.actionTaken_buf : s.actionTaken.buf = s.buf := rfl
@[simp] theorem State.actionTaken_status : s.actionTaken.status = s.status := rfl
@[simp] theorem State.actionTaken_result : s.actionTaken.result = s.result := rfl
@[simp] theorem State.actionTaken_pending : s.actionTaken.pending = s.pending.tail := rfl
@[simp] theorem State.actionTaken_returned : s.actionTaken.returned = s.returned := rfl
@[simp] theorem State.actionTaken_len : s.actionTaken.len = s.len := rfl
@[simp] theorem State.actionTaken_sequence : s.actionTaken.sequence = s.sequence := rfl

theorem State.actionTaken_of_nil (h : s.pending = []) : s.actionTaken = s := by
  cases s
  simp_all [State.actionTaken]

end ActionTaken

/-- The step in terms of the state with the action taken. -/
theorem step_eq_transact_actionTaken {s : State} {act : HostAction} {rest : List HostAction}
    (h : s.pending = act :: rest) : step s = transact act s.actionTaken := by
  rw [step_of_pending s act rest h, State.actionTaken, h, List.tail_cons]

/-- A next command other than CLR clears nothing: then the next action is no Reset. -/
theorem State.nextClears_iff_of_nextCommand {s : State} {c : Command} (h : s.nextCommand? = some c) :
    s.nextClears ↔ c = .instr .clr := by
  have no_reset : ¬ ∃ rest, s.pending = .reset :: rest := by
    rintro ⟨rest, hp⟩
    simp [State.nextCommand?, hp] at h
  simp [State.nextClears, h, no_reset]

/-- What clears the engine, if it is a command, is CLR. -/
theorem State.nextCommand?_ne_of_nextClears {s : State} (hn : s.nextClears) {c : Command} (h : c ≠ .instr .clr) :
    s.nextCommand? ≠ some c :=
  fun hc => h ((State.nextClears_iff_of_nextCommand hc).1 hn)

theorem State.nextCommand?_of_write_cmd {s : State} {w : Byte} {rest : List HostAction}
    (h : s.pending = .write addrCmd w :: rest) : s.nextCommand? = some (decode w) := by
  simp [State.nextCommand?, h]

/-- Every way a step from `s` to `t` can go, with what the host's next action is in each: the one inversion that the
rules about every step are derived from. -/
inductive StepCase (s t : State) : Prop
  /-- PUSH into a full buffer (R112). -/
  | dropped (v : Nibble) (hc : s.nextCommand? = some (.instr (.push v))) (hn : ¬ s.nextClears)
      (hl : s.len = s.cfg.nmax.val) (ht : t = s.actionTaken.markOverflow)
  /-- PUSH into a buffer with a free cell (R112). -/
  | pushed (v : Nibble) (hc : s.nextCommand? = some (.instr (.push v))) (hn : ¬ s.nextClears)
      (hl : s.len ≠ s.cfg.nmax.val) (ht : t = s.actionTaken.appendCell v)
  /-- GEN or VAL fails (R166). -/
  | raised (op : Op) (e : ErrorCond) (hc : s.nextCommand? = some (.instr op.instr)) (hn : ¬ s.nextClears)
      (hs : s.sequence = .error e) (ht : t = s.actionTaken.raise e op)
  /-- GEN or VAL succeeds (R120, R130). -/
  | completed (op : Op) (ds : List Digit) (hc : s.nextCommand? = some (.instr op.instr)) (hn : ¬ s.nextClears)
      (hs : s.sequence = .ok ds) (ht : t = s.actionTaken.complete op (op.resultOf ds))
  /-- CLR or Reset (R111, R180). -/
  | cleared (hn : s.nextClears) (ht : t = s.actionTaken.clearEngine)
  /-- A reserved word at `CMD` (R113). -/
  | reserved (w : Byte) (hc : s.nextCommand? = some (.illegal w)) (hn : ¬ s.nextClears)
      (ht : t = s.actionTaken.markIllegal)
  /-- A read, a write to an address other than `CMD`, or nothing pending: the registers and the buffer stay. -/
  | inert (bytes : List Byte) (hc : s.nextCommand? = none) (hn : ¬ s.nextClears)
      (ht : t = { s.actionTaken with returned := bytes })

/-- The step on a GEN or VAL. -/
theorem exec_op_stepCase (op : Op) {s : State} (hc : s.nextCommand? = some (.instr op.instr)) :
    ∃ t, exec op.instr s.actionTaken = .next t ∧ StepCase s t := by
  have hn : ¬ s.nextClears := by
    rw [State.nextClears_iff_of_nextCommand hc]
    simpa using op.instr_ne_clr
  cases hs : s.sequence with
  | error e => exact ⟨_, exec_op_of_error op hs, .raised op e hc hn hs rfl⟩
  | ok ds => exact ⟨_, exec_op_of_ok op hs, .completed op ds hc hn hs rfl⟩

/-- The step on any command. -/
theorem exec_stepCase (i : Instr) {s : State} (hc : s.nextCommand? = some (.instr i)) :
    ∃ t, exec i s.actionTaken = .next t ∧ StepCase s t := by
  have clears_iff := State.nextClears_iff_of_nextCommand hc
  cases i with
  | push v =>
    have hn : ¬ s.nextClears := by simp [clears_iff]
    by_cases hl : s.len = s.cfg.nmax.val
    · exact ⟨_, execPush_of_full v hl, .dropped v hc hn hl rfl⟩
    · exact ⟨_, execPush_of_not_full v hl, .pushed v hc hn hl rfl⟩
  | gen => exact exec_op_stepCase .gen hc
  | val => exact exec_op_stepCase .val hc
  | clr => exact ⟨_, exec_clr _, .cleared (clears_iff.2 rfl) rfl⟩

/-- Every step goes through (R192), in one of the ways of `StepCase`. -/
theorem exists_step_stepCase (s : State) : ∃ t, step s = .next t ∧ StepCase s t := by
  cases hp : s.pending with
  | nil =>
    refine ⟨s, step_of_nil s hp, .inert s.returned ?_ ?_ (s.actionTaken_of_nil hp).symm⟩
    · simp [State.nextCommand?, hp]
    · simp [State.nextClears, State.nextCommand?, hp]
  | cons act rest =>
    rw [step_eq_transact_actionTaken hp]
    rcases transact_cases act s.actionTaken with
      ⟨w, i, rfl, hd, ht⟩ | ⟨w, b, rfl, hd, ht⟩ | ⟨a, b, rfl, ha, ht⟩ | ⟨a, rfl, ht⟩ | ⟨rfl, ht⟩ <;> rw [ht]
    · exact exec_stepCase i (hd ▸ State.nextCommand?_of_write_cmd hp)
    · have hc : s.nextCommand? = some (.illegal b) := hd ▸ State.nextCommand?_of_write_cmd hp
      exact ⟨_, rfl, .reserved b hc (by simp [State.nextClears_iff_of_nextCommand hc]) rfl⟩
    · refine ⟨_, rfl, .inert s.returned ?_ ?_ rfl⟩
      · simp [State.nextCommand?, hp, ha]
      · simp [State.nextClears, State.nextCommand?, hp, ha]
    · refine ⟨_, rfl, .inert _ ?_ ?_ rfl⟩
      · simp [State.nextCommand?, hp]
      · simp [State.nextClears, State.nextCommand?, hp]
    · exact ⟨_, rfl, .cleared (.inr ⟨rest, hp⟩) rfl⟩

theorem step_cases {s t : State} (h : step s = .next t) : StepCase s t := by
  obtain ⟨u, hu, hcase⟩ := exists_step_stepCase s
  obtain rfl : u = t := by simpa [hu] using h
  exact hcase

/-! ### The bytes of `STATUS` and `RESULT` -/

/-- Bits 7:6 of `STATUS` read as 0 (R23). -/
theorem statusByte_reserved_bits (st : Status) : (statusByte st).extractLsb 7 6 = 0#2 := by
  obtain ⟨done, op, err, ovf, ill⟩ := st
  simp only [statusByte]
  generalize errCode err = code
  generalize opBit op = bit
  revert done code bit ovf ill
  decide

/-- The layout of `RESULT` (R28). -/
theorem resultByte_layout (r : Result) : (resultByte r).extractLsb 3 0 = r.digit ∧
    (resultByte r).getLsbD 4 = r.valid ∧ (resultByte r).extractLsb 7 5 = 0#3 := by
  obtain ⟨valid, digit⟩ := r
  simp only [resultByte]
  revert valid digit
  decide

/-- Bits 7:5 of `RESULT` read as 0 (R28). -/
theorem resultByte_reserved_bits (r : Result) : (resultByte r).extractLsb 7 5 = 0#3 := by
  obtain ⟨-, -, hbits⟩ := resultByte_layout r
  exact hbits

@[simp] theorem statusByte_reset : statusByte Status.reset = 0x00#8 := rfl

@[simp] theorem resultByte_noResult : resultByte Result.noResult = 0x0F#8 := rfl

/-- A successful GEN reads as its check digit (R120). -/
theorem resultByte_genResult_toNat (ds : List Digit) : (resultByte (genResult ds)).toNat = (genDigit ds).val := by
  unfold genResult
  generalize genDigit ds = d
  revert d
  decide

/-- A successful VAL reads as its verdict (R130). -/
theorem resultByte_valResult (ds : List Digit) :
    resultByte (valResult ds) = if isValidSeq ds = true then 0x1F#8 else 0x0F#8 := by
  unfold valResult
  cases isValidSeq ds <;> rfl

/-! ### The invariants of R34 -/

section Inv
variable {s : State}

theorem freshRun_inv (c : Config) (acts : List HostAction) : (State.freshRun c acts).Inv :=
  ⟨Nat.zero_le _, nofun, ⟨statusByte_reserved_bits _, resultByte_reserved_bits _⟩,
    fun _ => ⟨rfl, rfl, resultByte_noResult⟩, fun _ => resultByte_noResult, nofun, nofun, nofun⟩

theorem clearEngine_inv (s : State) : s.clearEngine.Inv := freshRun_inv s.cfg s.pending

theorem markOverflow_inv (hi : s.Inv) (hl : s.len = s.cfg.nmax.val) : s.markOverflow.Inv := by
  obtain ⟨hlen, -, ⟨-, hres⟩, hidle, herr, hgen, hval, -⟩ := hi
  exact ⟨hlen, fun _ => hl, ⟨statusByte_reserved_bits _, hres⟩, hidle, herr, hgen, hval, fun _ => rfl⟩

theorem markIllegal_inv (hi : s.Inv) : s.markIllegal.Inv := by
  obtain ⟨hlen, hfull, ⟨-, hres⟩, hidle, herr, hgen, hval, hovf⟩ := hi
  exact ⟨hlen, hfull, ⟨statusByte_reserved_bits _, hres⟩, hidle, herr, hgen, hval, hovf⟩

/-- A PUSH that finds a free cell: `OVF` is 0 then, since it implies a full buffer. -/
theorem appendCell_inv (v : Nibble) (hi : s.Inv) (hl : s.len ≠ s.cfg.nmax.val) : (s.appendCell v).Inv := by
  obtain ⟨hlen, hfull, hbits, hidle, herr, hgen, hval, hovf⟩ := hi
  refine ⟨?_, fun ho => absurd (hfull ho) hl, hbits, hidle, herr, hgen, hval, hovf⟩
  rw [State.appendCell_len, State.appendCell_cfg]
  omega

theorem raise_inv (op : Op) {e : ErrorCond} (hi : s.Inv) (he : s.sequence = .error e) : (s.raise e op).Inv := by
  obtain ⟨hlen, hfull, -⟩ := hi
  refine ⟨hlen, hfull, ⟨statusByte_reserved_bits _, resultByte_reserved_bits _⟩, nofun, fun _ => resultByte_noResult,
    fun _ => nofun, fun _ => nofun, ?_⟩
  intro h
  obtain rfl : e = .overflow := by simpa using h
  exact State.ovf_of_sequence_overflow he

theorem complete_inv (op : Op) (ds : List Digit) (hi : s.Inv) : (s.complete op (op.resultOf ds)).Inv := by
  obtain ⟨hlen, hfull, -⟩ := hi
  refine ⟨hlen, hfull, ⟨statusByte_reserved_bits _, resultByte_reserved_bits _⟩, nofun, fun h => absurd rfl h,
    ?_, ?_, nofun⟩
  · rintro - - (rfl : op = .gen)
    have hd := resultByte_genResult_toNat ds
    have := (genDigit ds).isLt
    rw [State.complete_result, Op.resultOf_gen]
    omega
  · rintro - - (rfl : op = .val)
    rw [State.complete_result, Op.resultOf_val, resultByte_valResult]
    split
    · exact .inr rfl
    · exact .inl rfl

/-- The invariants speak of the registers and the buffer, and not of the host's side of the port. -/
theorem actionTaken_inv (hi : s.Inv) : s.actionTaken.Inv := hi

theorem step_keeps_inv {t : State} (hi : s.Inv) (h : step s = .next t) : t.Inv := by
  have hi' := actionTaken_inv hi
  cases step_cases h with
  | dropped v hc hn hl ht => exact ht ▸ markOverflow_inv hi' hl
  | pushed v hc hn hl ht => exact ht ▸ appendCell_inv v hi' hl
  | raised op e hc hn hs ht => exact ht ▸ raise_inv op hi' hs
  | completed op ds hc hn hs ht => exact ht ▸ complete_inv op ds hi'
  | cleared hn ht => exact ht ▸ clearEngine_inv _
  | reserved w hc hn ht => exact ht ▸ markIllegal_inv hi'
  | inert bytes hc hn ht => exact ht ▸ hi'

/-- The bytes that `RESULT` can read as, where the invariants hold: by `DONE`, `ERR` and `OP`. -/
theorem resultByte_of_inv (hi : s.Inv) :
    (resultByte s.result).toNat ≤ 9 ∨ resultByte s.result = 0x1F#8 ∨ resultByte s.result = 0x0F#8 := by
  obtain ⟨-, -, -, hidle, herr, hgen, hval, -⟩ := hi
  by_cases he : s.status.err = none
  · cases hd : s.status.done with
    | false =>
      obtain ⟨-, -, hr⟩ := hidle hd
      exact .inr (.inr hr)
    | true =>
      cases ho : s.status.op with
      | gen => exact .inl (hgen hd he ho)
      | val => exact .inr (hval hd he ho).symm
  · exact .inr (.inr (herr he))

end Inv

/-! ### Induction over runs and over reachable states -/

/-- What every step keeps, every run keeps. -/
theorem runSteps_keeps {P : State → Prop} (hstep : ∀ s t, P s → step s = .next t → P t) (k : Nat) {s t : State}
    (hs : P s) (h : runSteps k s = .next t) : P t := by
  induction k generalizing s with
  | zero =>
    obtain rfl : s = t := by simpa using h
    exact hs
  | succ k ih =>
    obtain ⟨u, hu, -⟩ := exists_step_stepCase s
    rw [runSteps_succ_of_step k s u hu] at h
    exact ih (hstep s u hs hu) h

/-- What holds at reset and is kept by every step holds of every reachable state. -/
theorem reachable_induction {P : State → Prop} (hreset : ∀ c acts, P (State.freshRun c acts))
    (hstep : ∀ s t, P s → step s = .next t → P t) {s : State} (h : s.Reachable) : P s := by
  obtain ⟨c, acts, k, hk⟩ := h
  exact runSteps_keeps hstep k (hreset c acts) hk

theorem reachable_inv {s : State} (h : s.Reachable) : s.Inv :=
  reachable_induction freshRun_inv (fun _ _ => step_keeps_inv) h

/-! ### The sticky flags -/

/-- `OVF` after a step (R26). -/
theorem step_ovf {s t : State} (h : step s = .next t) :
    (s.nextClears → t.status.ovf = false) ∧
    (∀ v, s.nextCommand? = some (.instr (.push v)) → s.len = s.cfg.nmax.val → t.status.ovf = true) ∧
    (¬ s.nextClears → (∀ v, s.nextCommand? = some (.instr (.push v)) → s.len ≠ s.cfg.nmax.val) →
      t.status.ovf = s.status.ovf) := by
  cases step_cases h with
  | dropped v hc hn hl ht => simp [hc, hn, hl, ht]
  | pushed v hc hn hl ht => simp [hn, hl, ht]
  | raised op e hc hn hs ht => simp [hc, hn, ht, op.instr_ne_push]
  | completed op ds hc hn hs ht => simp [hc, hn, ht, op.instr_ne_push]
  | cleared hn ht => simp [hn, ht, State.nextCommand?_ne_of_nextClears hn]
  | reserved w hc hn ht => simp [hc, hn, ht]
  | inert bytes hc hn ht => simp [hc, hn, ht]

/-- Settles O32, by what a step can do; GEN and VAL check `OVF` before anything else. -/
theorem ovfChangesOnlyAsStated : Obligations.OvfChangesOnlyAsStated := by
  have code_of_ovf (op : Op) {s t : State} (ho : s.status.ovf = true) (h : exec op.instr s = .next t) :
      errCode t.status.err = 3#2 := by
    rw [exec_op_of_error op (State.sequence_of_ovf ho)] at h
    cases h
    rfl
  refine ⟨fun s t h => step_ovf h, ?_⟩
  rintro i s t (rfl | rfl) ho h
  · exact code_of_ovf .gen ho h
  · exact code_of_ovf .val ho h

/-- `ILL` after a step (R27). -/
theorem step_ill {s t : State} (h : step s = .next t) :
    (s.nextClears → t.status.ill = false) ∧
    (∀ w, s.nextCommand? = some (.illegal w) → t.status.ill = true) ∧
    (¬ s.nextClears → (∀ w, s.nextCommand? ≠ some (.illegal w)) → t.status.ill = s.status.ill) := by
  cases step_cases h with
  | dropped v hc hn hl ht => simp [hc, hn, ht]
  | pushed v hc hn hl ht => simp [hc, hn, ht]
  | raised op e hc hn hs ht => simp [hc, hn, ht]
  | completed op ds hc hn hs ht => simp [hc, hn, ht]
  | cleared hn ht => simp [hn, ht, State.nextCommand?_ne_of_nextClears hn]
  | reserved w hc hn ht => simp [hc, hn, ht]
  | inert bytes hc hn ht => simp [hc, hn, ht]

/-- The state with another `ILL`. -/
def State.withIll (s : State) (b : Bool) : State := { s with status := { s.status with ill := b } }

@[simp] theorem State.withIll_sequence (s : State) (b : Bool) : (s.withIll b).sequence = s.sequence := rfl

/-- GEN and VAL do not look at `ILL`, nor write it. -/
theorem exec_op_withIll (op : Op) {s t : State} (b : Bool) (h : exec op.instr s = .next t) :
    exec op.instr (s.withIll b) = .next (t.withIll b) := by
  cases hs : s.sequence with
  | error e =>
    rw [exec_op_of_error op hs] at h
    cases h
    exact exec_op_of_error op hs
  | ok ds =>
    rw [exec_op_of_ok op hs] at h
    cases h
    exact exec_op_of_ok op hs

/-- PUSH does not look at `ILL`, nor write it. -/
theorem execPush_withIll (v : Nibble) {s t : State} (b : Bool) (h : execPush v s = .next t) :
    execPush v (s.withIll b) = .next (t.withIll b) := by
  rcases execPush_cases v s with ⟨hl, he⟩ | ⟨hl, he⟩
  · rw [he] at h
    cases h
    exact execPush_of_full v hl
  · rw [he] at h
    cases h
    exact execPush_of_not_full v hl

/-- Settles O33: the step rule, and the noninterference of `ILL` command by command. -/
theorem illChangesOnlyAsStated : Obligations.IllChangesOnlyAsStated := by
  refine ⟨fun s t h => step_ill h, fun i s t b hi h => ?_⟩
  cases i with
  | push v => exact execPush_withIll v b h
  | gen => exact exec_op_withIll .gen b h
  | val => exact exec_op_withIll .val b h
  | clr => exact absurd rfl hi

/-! ### `LEN` -/

/-- `LEN` after a step, in states outside R34 too: there a PUSH above `NMAX` still appends. -/
theorem step_len {s t : State} (h : step s = .next t) :
    (s.nextClears → t.len = 0) ∧
    (∀ v, s.nextCommand? = some (.instr (.push v)) → s.len ≠ s.cfg.nmax.val → t.len = s.len + 1) ∧
    (¬ s.nextClears → (∀ v, s.nextCommand? = some (.instr (.push v)) → s.len = s.cfg.nmax.val) →
      t.len = s.len) := by
  cases step_cases h with
  | dropped v hc hn hl ht => simp [hn, hl, ht]
  | pushed v hc hn hl ht => simp [hc, hn, hl, ht]
  | raised op e hc hn hs ht => simp [hc, hn, ht, op.instr_ne_push]
  | completed op ds hc hn hs ht => simp [hc, hn, ht, op.instr_ne_push]
  | cleared hn ht => simp [hn, ht, State.nextCommand?_ne_of_nextClears hn]
  | reserved w hc hn ht => simp [hc, hn, ht]
  | inert bytes hc hn ht => exact ht ▸ ⟨fun hn' => absurd hn' hn, by simp [hc], fun _ _ => rfl⟩

/-- Settles O34: within R34 `LEN` is at most `NMAX`, so "not full" is "below `NMAX`", and the step keeps it so. -/
theorem lenChangesOnlyAsStated : Obligations.LenChangesOnlyAsStated := by
  intro s t hi h
  obtain ⟨hlen', -⟩ := step_keeps_inv hi h
  obtain ⟨hlen, -⟩ := hi
  obtain ⟨hclear, hpush, hkeep⟩ := step_len h
  refine ⟨hlen', hclear, fun v hc hlt => hpush v hc hlt.ne, fun hn hfull => hkeep hn fun v hc => ?_⟩
  have := hfull v hc
  omega

/-! ### The invariants and `RESULT` -/

/-- Settles O40, by induction over reachable states. -/
theorem reachableStatesMeetTheInvariants : Obligations.ReachableStatesMeetTheInvariants :=
  fun _ => reachable_inv

/-- `RESULT` after a step (R28), with GEN and VAL taken together. -/
theorem step_result {s t : State} (h : step s = .next t) :
    (∀ op : Op, s.nextCommand? = some (.instr op.instr) → t.status.err = none →
      ∃ ds, ds ≠ [] ∧ s.buf = ds.map nibbleOfDigit ∧ t.result = op.resultOf ds) ∧
    (∀ op : Op, s.nextCommand? = some (.instr op.instr) → t.status.err ≠ none → t.result = Result.noResult) ∧
    (s.nextClears → t.result = Result.noResult) ∧
    ((∀ op : Op, s.nextCommand? ≠ some (.instr op.instr)) → ¬ s.nextClears → t.result = s.result) := by
  cases step_cases h with
  | dropped v hc hn hl ht => simp [hc, hn, ht, (Op.instr_ne_push _ v).symm]
  | pushed v hc hn hl ht => simp [hc, hn, ht, (Op.instr_ne_push _ v).symm]
  | raised op e hc hn hs ht => simp [hn, ht, hc]
  | completed op ds hc hn hs ht =>
    obtain ⟨hne, hb⟩ := State.buf_of_sequence_ok hs
    refine ⟨fun op' hc' _ => ⟨ds, hne, hb, ?_⟩, by simp [ht], fun hn' => absurd hn' hn, fun h' => absurd hc (h' op)⟩
    obtain rfl : op = op' := by
      cases op <;> cases op' <;> simp [hc] at hc' ⊢
    simp [ht]
  | cleared hn ht => simp [hn, ht, State.nextCommand?_ne_of_nextClears hn, Op.instr_ne_clr]
  | reserved w hc hn ht => simp [hc, hn, ht]
  | inert bytes hc hn ht => simp [hc, hn, ht]

/-- Settles O41: the layout, the step rule read as bytes, and the invariants in reachable states. -/
theorem resultTakesOnlyTheListedBytes : Obligations.ResultTakesOnlyTheListedBytes := by
  refine ⟨resultByte_layout, fun s t h => ?_, fun s hr => resultByte_of_inv (reachable_inv hr)⟩
  obtain ⟨hok, hfail, hclear, hkeep⟩ := step_result h
  refine ⟨fun hc he => ?gen, fun hc he => ?val, fun hc he => ?failed, fun hn => ?cleared, fun hg hv hn => ?other⟩
  case gen =>
    obtain ⟨ds, hne, hb, hr⟩ := hok .gen hc he
    exact ⟨ds, hne, hb, hr ▸ resultByte_genResult_toNat ds⟩
  case val =>
    obtain ⟨ds, hne, hb, hr⟩ := hok .val hc he
    exact ⟨ds, hne, hb, hr ▸ resultByte_valResult ds⟩
  case failed =>
    have hr : t.result = Result.noResult := hc.elim (hfail .gen · he) (hfail .val · he)
    rw [hr, resultByte_noResult]
  case cleared => rw [hclear hn, resultByte_noResult]
  case other =>
    refine hkeep (fun op => ?_) hn
    cases op with
    | gen => exact hg
    | val => exact hv

/-! ### The reserved addresses and the reset state -/

theorem hostReadByte_of_reserved {a : Addr} (ha : 4 ≤ a.toNat) (s : State) : hostReadByte a s = 0x00#8 := by
  have ne_of_lt (b : Addr) (hb : b.toNat < 4) : a ≠ b := by
    rintro rfl
    omega
  simp [hostReadByte, ne_of_lt addrStatus (by decide), ne_of_lt addrResult (by decide), ne_of_lt addrLen (by decide)]

theorem hostWrite_of_ne_cmd {a : Addr} (ha : a ≠ addrCmd) (b : Byte) (s : State) : hostWrite a b s = .next s := by
  simp [hostWrite, ha]

/-- Settles O10: what the port does at a reserved address is what the step does. -/
theorem reservedAddressesDoNothing : Obligations.ReservedAddressesDoNothing := by
  intro s a rest ha
  refine ⟨fun hp => ?_, fun b hp => ?_⟩
  · rw [step_of_pending s _ rest hp, transact, hostReadByte_of_reserved ha]
  · have ne_cmd : a ≠ addrCmd := by
      rintro rfl
      exact absurd ha (by decide)
    rw [step_of_pending s _ rest hp, transact, hostWrite_of_ne_cmd ne_cmd]

/-- Clearing the engine leaves the reset state but for the host's side of the port (R111, R180). -/
theorem State.clearEngine_eq_resetFor (s : State) :
    s.clearEngine = { State.resetFor s.cfg with pending := s.pending, returned := s.returned } := rfl

/-- Settles O12: the values as they stand in the reset state, and CLR as `clearEngine`. -/
theorem resetStateHoldsTheSpecValues : Obligations.ResetStateHoldsTheSpecValues := by
  intro c
  refine ⟨rfl, statusByte_reset, rfl, resultByte_noResult, rfl, Memory.read?_empty, ?_⟩
  rintro s rfl
  rw [exec_clr, State.clearEngine_eq_resetFor]

end Sys2Proof.Machine
end

section
/-! The rules of spec/20_memory.md: the transactions of the host port one by one, the bytes a read returns, what a
command leaves alone and what its repetition does; then the statements. -/
namespace Sys2Proof.Machine

/-! ### The step on a read or a write -/

section Transactions
variable {s : State} {a : Addr} {rest : List HostAction}

/-- A read is answered from the state as it stands, and the byte noted is all it leaves behind (R54). -/
theorem step_of_read (hp : s.pending = .read a :: rest) :
    step s = .next { s with pending := rest, returned := s.returned ++ [hostReadByte a s] } :=
  step_of_pending s _ rest hp

theorem step_of_write_of_ne_cmd {b : Byte} (ha : a ≠ addrCmd) (hp : s.pending = .write a b :: rest) :
    step s = .next { s with pending := rest } := by
  rw [step_of_pending s _ rest hp, transact, hostWrite_of_ne_cmd ha]

theorem step_of_write_cmd {b : Byte} (hp : s.pending = .write addrCmd b :: rest) :
    step s = executeWord b { s with pending := rest } :=
  step_of_pending s _ rest hp

end Transactions

theorem executeWord_of_instr {w : Byte} {i : Instr} (hd : decode w = .instr i) (s : State) :
    executeWord w s = exec i s := by
  simp [executeWord, hd]

theorem executeWord_of_illegal {w b : Byte} (hd : decode w = .illegal b) (s : State) :
    executeWord w s = .next s.markIllegal := by
  simp [executeWord, hd, execIllegal]

/-! ### GEN and VAL: the operand stays, so a repetition does the same -/

@[simp] theorem State.raise_sequence (s : State) (e : ErrorCond) (op : Op) :
    (s.raise e op).sequence = s.sequence := rfl

@[simp] theorem State.complete_sequence (s : State) (op : Op) (r : Result) :
    (s.complete op r).sequence = s.sequence := rfl

/-- Everything GEN and VAL can do, the two taken together (R120, R130, R166). -/
theorem exec_op_cases (op : Op) {s t : State} (h : exec op.instr s = .next t) :
    (∃ e, s.sequence = .error e ∧ t = s.raise e op) ∨
    (∃ ds, s.sequence = .ok ds ∧ t = s.complete op (op.resultOf ds)) := by
  cases hs : s.sequence with
  | error e =>
    rw [exec_op_of_error op hs] at h
    cases h
    exact .inl ⟨e, rfl, rfl⟩
  | ok ds =>
    rw [exec_op_of_ok op hs] at h
    cases h
    exact .inr ⟨ds, rfl, rfl⟩

/-- The second GEN or VAL finds the same operand, and writes again what stands there. -/
theorem exec_op_idempotent (op : Op) {s t : State} (h : exec op.instr s = .next t) :
    exec op.instr t = .next t := by
  rcases exec_op_cases op h with ⟨e, hs, rfl⟩ | ⟨ds, hs, rfl⟩
  · exact exec_op_of_error op ((s.raise_sequence e op).trans hs)
  · exact exec_op_of_ok op ((s.complete_sequence op _).trans hs)

theorem exec_clr_idempotent {s t : State} (h : exec .clr s = .next t) : exec .clr t = .next t := by
  cases h
  rfl

/-! ### PUSH -/

theorem eq_appendCell_of_exec_push {v : Nibble} {s t : State} (hl : s.len ≠ s.cfg.nmax.val)
    (h : exec (.push v) s = .next t) : t = s.appendCell v := by
  rw [exec_push, execPush_of_not_full v hl] at h
  cases h
  rfl

/-- Two PUSHes into a buffer with two free cells: the second finds one cell fewer and still a free one. -/
theorem buf_of_exec_push_push {v w : Nibble} {s t u : State} (hl : s.len + 2 ≤ s.cfg.nmax.val)
    (ht : exec (.push v) s = .next t) (hu : exec (.push w) t = .next u) : u.buf = s.buf ++ [v, w] := by
  obtain rfl := eq_appendCell_of_exec_push (by omega) ht
  have free : (s.appendCell v).len ≠ (s.appendCell v).cfg.nmax.val := by
    rw [State.appendCell_len, State.appendCell_cfg]
    omega
  obtain rfl := eq_appendCell_of_exec_push free hu
  simp [Memory.append]

/-- Settles O37: the read and the inert write by the step rules, PUSH by the cells it fills, GEN, VAL and CLR by
their idempotence. -/
theorem onlyCommandsHaveEffects : Obligations.OnlyCommandsHaveEffects := by
  refine ⟨fun s t a rest hp h => ?read, fun s a b rest ha hp => step_of_write_of_ne_cmd ha hp,
    fun s t u hl ht hu => buf_of_exec_push_push hl ht hu, ?idempotent⟩
  case read =>
    rw [step_of_read hp] at h
    cases h
    exact ⟨rfl, rfl, rfl, rfl⟩
  case idempotent =>
    rintro i s t (rfl | rfl | rfl) h
    · exact exec_op_idempotent .gen h
    · exact exec_op_idempotent .val h
    · exact exec_clr_idempotent h

/-! ### A write returns nothing -/

theorem exec_op_returned (op : Op) {s t : State} (h : exec op.instr s = .next t) : t.returned = s.returned := by
  rcases exec_op_cases op h with ⟨e, -, rfl⟩ | ⟨ds, -, rfl⟩
  · exact s.raise_returned e op
  · exact s.complete_returned op _

theorem exec_returned {i : Instr} {s t : State} (h : exec i s = .next t) : t.returned = s.returned := by
  cases i with
  | push v =>
    rw [exec_push] at h
    rcases execPush_cases v s with ⟨-, he⟩ | ⟨-, he⟩
    · rw [he] at h
      cases h
      exact s.markOverflow_returned
    · rw [he] at h
      cases h
      exact s.appendCell_returned v
  | gen => exact exec_op_returned .gen h
  | val => exact exec_op_returned .val h
  | clr =>
    cases h
    exact s.clearEngine_returned

theorem executeWord_returned {w : Byte} {s t : State} (h : executeWord w s = .next t) :
    t.returned = s.returned := by
  cases hd : decode w with
  | instr i =>
    rw [executeWord_of_instr hd] at h
    exact exec_returned h
  | illegal b =>
    rw [executeWord_of_illegal hd] at h
    cases h
    exact s.markIllegal_returned

theorem returned_of_step_of_write {s t : State} {a : Addr} {b : Byte} {rest : List HostAction}
    (hp : s.pending = .write a b :: rest) (h : step s = .next t) : t.returned = s.returned := by
  by_cases ha : a = addrCmd
  · subst ha
    rw [step_of_write_cmd hp] at h
    exact executeWord_returned (s := { s with pending := rest }) h
  · rw [step_of_write_of_ne_cmd ha hp] at h
    cases h
    rfl

/-- Settles O8: at `CMD` by what the word decodes to, elsewhere by the inert write. -/
theorem hostWriteFollowsItsRule : Obligations.HostWriteFollowsItsRule := by
  intro s a b rest hp
  refine ⟨?command, ?reserved, fun ha => step_of_write_of_ne_cmd ha hp, fun t h => returned_of_step_of_write hp h⟩
  case command =>
    rintro rfl i hd
    rw [step_of_write_cmd hp, executeWord_of_instr hd]
  case reserved =>
    rintro rfl w hd
    rw [step_of_write_cmd hp, executeWord_of_illegal hd, State.markIllegal]

/-! ### The byte a read returns -/

@[simp] theorem hostReadByte_cmd (s : State) : hostReadByte addrCmd s = 0x00#8 := rfl
@[simp] theorem hostReadByte_status (s : State) : hostReadByte addrStatus s = statusByte s.status := rfl
@[simp] theorem hostReadByte_result (s : State) : hostReadByte addrResult s = resultByte s.result := rfl
@[simp] theorem hostReadByte_len (s : State) : hostReadByte addrLen s = BitVec.ofNat 8 s.len := rfl

/-- `LEN` fits the byte wherever it fits the buffer, since `NMAX` is at most 255 (R7, R29). -/
theorem hostReadByte_len_toNat {s : State} (hl : s.len ≤ s.cfg.nmax.val) :
    (hostReadByte addrLen s).toNat = s.len := by
  obtain ⟨-, nmax_le⟩ := s.cfg.nmax.property
  rw [hostReadByte_len, BitVec.toNat_ofNat]
  exact Nat.mod_eq_of_lt (by omega)

/-- The layout of `STATUS` (R23). -/
theorem statusByte_layout (st : Status) : (statusByte st).extractLsb 7 6 = 0#2 ∧
    (statusByte st).getLsbD 5 = st.ill ∧ (statusByte st).getLsbD 4 = st.ovf ∧
    (statusByte st).extractLsb 3 2 = errCode st.err ∧ (statusByte st).getLsbD 1 = opBit st.op ∧
    (statusByte st).getLsbD 0 = st.done := by
  refine ⟨statusByte_reserved_bits st, ?_⟩
  obtain ⟨done, op, err, ovf, ill⟩ := st
  simp only [statusByte]
  generalize errCode err = code
  generalize opBit op = bit
  revert done code bit ovf ill
  decide

/-- Settles O9: the byte is `hostReadByte`, register by register. -/
theorem hostReadFollowsItsRule : Obligations.HostReadFollowsItsRule := by
  intro s a rest hp
  refine ⟨hostReadByte a s, step_of_read hp, ?cmd, ?status, ?result, ?len, fun ha => hostReadByte_of_reserved ha s⟩
  case cmd =>
    rintro rfl
    exact hostReadByte_cmd s
  case status =>
    rintro rfl
    rw [show hostReadByte 1#3 s = _ from hostReadByte_status s]
    exact statusByte_layout s.status
  case result =>
    rintro rfl
    rw [show hostReadByte 2#3 s = _ from hostReadByte_result s]
    obtain ⟨hdigit, hvalid, hzero⟩ := resultByte_layout s.result
    exact ⟨hzero, hvalid, hdigit⟩
  case len =>
    rintro rfl
    exact ⟨hostReadByte_len s, hostReadByte_len_toNat⟩

end Sys2Proof.Machine
end

section
/-! The rules of spec/30_encoding.md. First the two fields of a command word as numbers; then `decode` as the inverse of
`encode`; then which numbers are command words, and how many; then the opcode map and the lines of a host script. -/
namespace Sys2Proof.Machine

/-! ### The fields of a command word (R71) -/

theorem opcField_toNat (w : Byte) : (opcField w).toNat = w.toNat / 16 := by
  have fits : w.toNat / 16 < 16 := by omega
  simp [opcField, BitVec.extractLsb_toNat, Nat.shiftRight_eq_div_pow, Nat.mod_eq_of_lt fits]

theorem operandField_toNat (w : Byte) : (operandField w).toNat = w.toNat % 16 := by
  simp [operandField, BitVec.extractLsb_toNat]

theorem opcField_eq_one_iff (w : Byte) : opcField w = 0x1#4 ↔ w.toNat / 16 = 1 := by
  rw [← BitVec.toNat_inj, opcField_toNat, BitVec.toNat_ofNat]

theorem encode_push_toNat (v : Nibble) : (encode (.push v)).toNat = 0x10 + v.toNat := by
  have fits : 0x10 + v.toNat < 256 := by omega
  simp [encode, Nat.mod_eq_of_lt fits]

theorem opcField_encode_push (v : Nibble) : opcField (encode (.push v)) = 0x1#4 := by
  rw [opcField_eq_one_iff, encode_push_toNat]
  omega

theorem operandField_encode_push (v : Nibble) : operandField (encode (.push v)) = v := by
  apply BitVec.eq_of_toNat_eq
  rw [operandField_toNat, encode_push_toNat]
  omega

/-- A word with PUSH's opcode is the PUSH of its operand field (R72). -/
theorem encode_push_operandField {w : Byte} (h : opcField w = 0x1#4) : encode (.push (operandField w)) = w := by
  rw [opcField_eq_one_iff] at h
  apply BitVec.eq_of_toNat_eq
  rw [encode_push_toNat, operandField_toNat]
  omega

/-! ### `decode` and `encode` (R74, R80) -/

@[simp] theorem decode_encode (i : Instr) : decode (encode i) = .instr i := by
  cases i with
  | push v => simp [decode, opcField_encode_push, operandField_encode_push]
  | gen => rfl
  | val => rfl
  | clr => rfl

theorem decode_of_ne_encode {w : Byte} (h : ∀ i, encode i ≠ w) : decode w = .illegal w := by
  have not_push : opcField w ≠ 0x1#4 := fun hopc => h _ (encode_push_operandField hopc)
  have not_gen : w ≠ 0x20#8 := (h .gen).symm
  have not_val : w ≠ 0x30#8 := (h .val).symm
  have not_clr : w ≠ 0x40#8 := (h .clr).symm
  simp [decode, not_push, not_gen, not_val, not_clr]

/-- Everything the decoder can answer. -/
theorem decode_cases (w : Byte) : decode w = .illegal w ∨ ∃ i, decode w = .instr i ∧ encode i = w := by
  by_cases h : ∃ i, encode i = w
  · obtain ⟨i, rfl⟩ := h
    exact .inr ⟨i, decode_encode i, rfl⟩
  · exact .inl (decode_of_ne_encode (not_exists.1 h))

/-- The words that decode to a command are the commands' encodings. -/
theorem decode_eq_instr_iff {w : Byte} {i : Instr} : decode w = .instr i ↔ encode i = w := by
  constructor
  · intro hd
    rcases decode_cases w with hill | ⟨j, hj, rfl⟩
    · rw [hill] at hd
      cases hd
    · rw [hj] at hd
      cases hd
      rfl
  · rintro rfl
    exact decode_encode i

/-- The reserved words are those that encode nothing. -/
theorem decode_eq_illegal_iff {w : Byte} : decode w = .illegal w ↔ ∀ i, encode i ≠ w := by
  refine ⟨?_, decode_of_ne_encode⟩
  rintro hd i rfl
  rw [decode_encode] at hd
  cases hd

theorem encode_injective : Function.Injective encode := by
  intro i j h
  have hd := decode_eq_instr_iff.2 h
  rw [decode_encode] at hd
  cases hd
  rfl

/-- Settles O1: `decode` inverts `encode`, and is `ILLEGAL` off its range. -/
theorem encodeDecodeRoundTrip : Obligations.EncodeDecodeRoundTrip :=
  ⟨decode_encode, encode_push_toNat, rfl, rfl, rfl, decode_cases⟩

/-! ### The command words as numbers (R72, R75) -/

/-- The 19 numbers that are the word of a command. -/
abbrev IsCommandNumber (n : Nat) : Prop := n / 16 = 1 ∨ n = 0x20 ∨ n = 0x30 ∨ n = 0x40

theorem encode_push_ofNat {w : Byte} (h : w.toNat / 16 = 1) :
    encode (.push (BitVec.ofNat 4 (w.toNat % 16))) = w := by
  apply BitVec.eq_of_toNat_eq
  rw [encode_push_toNat, BitVec.toNat_ofNat]
  omega

theorem exists_encode_eq_iff {w : Byte} : (∃ i, encode i = w) ↔ IsCommandNumber w.toNat := by
  constructor
  · rintro ⟨i, rfl⟩
    cases i with
    | push v =>
      left
      rw [encode_push_toNat]
      omega
    | gen => decide
    | val => decide
    | clr => decide
  · rintro (h | h | h | h)
    · exact ⟨_, encode_push_ofNat h⟩
    · exact ⟨.gen, BitVec.eq_of_toNat_eq h.symm⟩
    · exact ⟨.val, BitVec.eq_of_toNat_eq h.symm⟩
    · exact ⟨.clr, BitVec.eq_of_toNat_eq h.symm⟩

theorem decode_eq_illegal_iff_not_isCommandNumber {w : Byte} :
    decode w = .illegal w ↔ ¬ IsCommandNumber w.toNat := by
  rw [decode_eq_illegal_iff, ← exists_encode_eq_iff, not_exists]

theorem count_isCommandNumber : ((List.range 256).filter fun n => IsCommandNumber n).length = 19 := by
  decide

/-- The other 237: what is left of the 256 words. -/
theorem count_not_isCommandNumber : ((List.range 256).filter fun n => ¬ IsCommandNumber n).length = 237 := by
  have parts := (List.range 256).length_eq_length_filter_add fun n => decide (IsCommandNumber n)
  rw [count_isCommandNumber, List.length_range] at parts
  simp only [decide_not]
  omega

theorem toNat_ofNat_of_mem_range {n : Nat} (h : n ∈ List.range 256) : (BitVec.ofNat 8 n).toNat = n := by
  rw [BitVec.toNat_ofNat]
  exact Nat.mod_eq_of_lt (List.mem_range.1 h)

/-- Settles O2: each command word is the encoding of its command, and every other word is reserved. -/
theorem decodeFollowsItsRule : Obligations.DecodeFollowsItsRule := by
  intro w
  refine ⟨fun h => ?push, fun h => ?gen, fun h => ?val, fun h => ?clr, fun hpush hgen hval hclr => ?reserved⟩
  case push => exact decode_eq_instr_iff.2 (encode_push_ofNat h)
  case gen => exact decode_eq_instr_iff.2 (BitVec.eq_of_toNat_eq h.symm)
  case val => exact decode_eq_instr_iff.2 (BitVec.eq_of_toNat_eq h.symm)
  case clr => exact decode_eq_instr_iff.2 (BitVec.eq_of_toNat_eq h.symm)
  case reserved =>
    rw [decode_eq_illegal_iff_not_isCommandNumber]
    exact not_or.2 ⟨hpush, not_or.2 ⟨hgen, not_or.2 ⟨hval, hclr⟩⟩⟩

theorem hostWrite_cmd (w : Byte) (s : State) : hostWrite addrCmd w s = executeWord w s := by
  simp [hostWrite]

/-- Settles O5: the reserved words are the complement of the 19 command words, and `CMD` notes them in `ILL`. -/
theorem reservedWordsOnlySetIll : Obligations.ReservedWordsOnlySetIll := by
  refine ⟨fun w => ?ranges, ?count, fun w s hd => ?effect⟩
  case ranges =>
    rw [decode_eq_illegal_iff_not_isCommandNumber]
    omega
  case count =>
    rw [← count_not_isCommandNumber]
    refine congrArg List.length (List.filter_congr fun n hn => ?_)
    simp only [decode_eq_illegal_iff_not_isCommandNumber, toNat_ofNat_of_mem_range hn]
  case effect => rw [hostWrite_cmd, executeWord_of_illegal hd, State.markIllegal]

/-! ### The opcode map (R72) -/

/-- Every command's word selects its row, and its row is in the map. -/
theorem rowSelects_encode_and_mem (i : Instr) : rowSelects (rowOf i) (encode i) = true ∧ rowOf i ∈ opcodeTable := by
  cases i with
  | push v => exact Laws.MatchesRow.push v
  | gen => exact Laws.MatchesRow.gen
  | val => exact Laws.MatchesRow.val
  | clr => exact Laws.MatchesRow.clr

/-- PUSH's mask keeps the opcode. -/
theorem opcField_and_pushMask (w : Byte) : opcField (w &&& 0xF0#8) = opcField w := by
  rw [opcField, BitVec.extractLsb_and]
  exact BitVec.and_allOnes

/-- A mask of eight ones keeps the word. -/
theorem rowSelects_fullMask_iff (m : String) (b w : Byte) :
    rowSelects { mnemonic := m, matchBits := b, maskBits := 0xFF#8 } w = true ↔ w = b := by
  have keeps : w &&& 0xFF#8 = w := BitVec.and_allOnes
  simp [rowSelects, keeps]

/-- Only the words of a row's commands select it. -/
theorem exists_encode_of_rowSelects {r : OpcodeRow} {w : Byte} (hr : r ∈ opcodeTable)
    (h : rowSelects r w = true) : ∃ i, encode i = w ∧ rowOf i = r := by
  simp only [opcodeTable, List.mem_cons, List.not_mem_nil, or_false] at hr
  rcases hr with rfl | rfl | rfl | rfl
  · have masked : w &&& 0xF0#8 = 0x10#8 := by simpa [rowSelects] using h
    have hopc : opcField w = 0x1#4 := by
      rw [← opcField_and_pushMask, masked]
      rfl
    exact ⟨_, encode_push_operandField hopc, rfl⟩
  · exact ⟨.gen, ((rowSelects_fullMask_iff _ _ _).1 h).symm, rfl⟩
  · exact ⟨.val, ((rowSelects_fullMask_iff _ _ _).1 h).symm, rfl⟩
  · exact ⟨.clr, ((rowSelects_fullMask_iff _ _ _).1 h).symm, rfl⟩

theorem rowSelects_encode_iff {r : OpcodeRow} (hr : r ∈ opcodeTable) (i : Instr) :
    rowSelects r (encode i) = true ↔ r = rowOf i := by
  constructor
  · intro h
    obtain ⟨j, hj, rfl⟩ := exists_encode_of_rowSelects hr h
    rw [encode_injective hj]
  · rintro rfl
    exact (rowSelects_encode_and_mem i).1

/-- The map has no row twice, so a command's word selects one row. -/
theorem filter_rowSelects_encode (i : Instr) : opcodeTable.filter (fun r => rowSelects r (encode i)) = [rowOf i] := by
  obtain ⟨-, hmem⟩ := rowSelects_encode_and_mem i
  have once : opcodeTable.count (rowOf i) = 1 := List.count_eq_one_of_mem (by decide) hmem
  calc opcodeTable.filter (fun r => rowSelects r (encode i))
      = opcodeTable.filter (· == rowOf i) :=
        List.filter_congr fun r hr => by rw [Bool.eq_iff_iff, rowSelects_encode_iff hr, beq_iff_eq]
    _ = List.replicate (opcodeTable.count (rowOf i)) (rowOf i) := List.filter_beq _
    _ = [rowOf i] := by rw [once, List.replicate_one]

theorem filter_rowSelects_of_instr {w : Byte} {i : Instr} (hd : decode w = .instr i) :
    opcodeTable.filter (fun r => rowSelects r w) = [rowOf i] := by
  rw [← decode_eq_instr_iff.1 hd, filter_rowSelects_encode]

theorem filter_rowSelects_of_reserved {w : Byte} (hd : decode w = .illegal w) :
    opcodeTable.filter (fun r => rowSelects r w) = [] := by
  refine List.filter_eq_nil_iff.2 fun r hr h => ?_
  obtain ⟨i, hi, -⟩ := exists_encode_of_rowSelects hr h
  exact decode_eq_illegal_iff.1 hd i hi

theorem any_rowSelects_iff (w : Byte) : (opcodeTable.any fun r => rowSelects r w) = true ↔ IsCommandNumber w.toNat := by
  rw [List.any_eq_true, ← exists_encode_eq_iff]
  constructor
  · rintro ⟨r, hr, h⟩
    obtain ⟨i, hi, -⟩ := exists_encode_of_rowSelects hr h
    exact ⟨i, hi⟩
  · rintro ⟨i, rfl⟩
    obtain ⟨hsel, hmem⟩ := rowSelects_encode_and_mem i
    exact ⟨rowOf i, hmem, hsel⟩

/-- Settles O3: the rows a word selects, for a command word and for a reserved one. -/
theorem opcodeMapSelectsTheDecodedRow : Obligations.OpcodeMapSelectsTheDecodedRow := by
  refine ⟨rfl, fun w => ?atMostOne, fun w i => filter_rowSelects_of_instr, fun w => filter_rowSelects_of_reserved,
    ?count⟩
  case atMostOne =>
    rcases decode_cases w with hd | ⟨i, hd, -⟩
    · simp [filter_rowSelects_of_reserved hd]
    · simp [filter_rowSelects_of_instr hd]
  case count =>
    rw [← count_isCommandNumber]
    refine congrArg List.length (List.filter_congr fun n hn => ?_)
    rw [Bool.eq_iff_iff, any_rowSelects_iff, toNat_ofNat_of_mem_range hn, decide_eq_true_iff]

/-! ### The lines of a host script (R78, R79) -/

theorem commandAction_push {v : Nat} (h : v ≤ 15) :
    commandAction (.push (BitVec.ofNat 4 v)) = .write 0#3 (BitVec.ofNat 8 (0x10 + v)) := by
  have word : encode (.push (BitVec.ofNat 4 v)) = BitVec.ofNat 8 (0x10 + v) := by
    apply BitVec.eq_of_toNat_eq
    rw [encode_push_toNat, BitVec.toNat_ofNat, BitVec.toNat_ofNat]
    omega
  rw [commandAction, word, addrCmd]

theorem pushesActions_nibblesOf {ds : List Nat} (h : ∀ v ∈ ds, v ≤ 15) :
    pushesActions (nibblesOf ds) = ds.map fun v => .write 0#3 (BitVec.ofNat 8 (0x10 + v)) := by
  rw [pushesActions, nibblesOf, List.map_map]
  exact List.map_congr_left fun v hv => commandAction_push (h v hv)

theorem all_fitsNibble_iff (ds : List Nat) : ds.all fitsNibble = true ↔ ∀ v ∈ ds, v ≤ 15 := by
  simp [fitsNibble]

theorem fitsByte_toNat (b : Byte) : fitsByte b.toNat = true := by
  simp only [fitsByte, decide_eq_true_eq]
  omega

theorem fitsAddr_toNat (a : Addr) : fitsAddr a.toNat = true := by
  simp only [fitsAddr, decide_eq_true_eq]
  omega

theorem assemble?_push {v : Nat} (h : v ≤ 15) :
    assemble? (.push v) = some [commandAction (.push (BitVec.ofNat 4 v))] := by
  simp [assemble?, Line.WellFormed, fitsNibble, h]

theorem assemble?_byte (w : Byte) : assemble? (.byte w.toNat) = some [.write addrCmd w] := by
  simp [assemble?, Line.WellFormed, fitsByte_toNat]

theorem assemble?_wr (a : Addr) (b : Byte) : assemble? (.wr a.toNat b.toNat) = some [.write a b] := by
  simp [assemble?, Line.WellFormed, fitsAddr_toNat, fitsByte_toNat]

theorem assemble?_rd (a : Addr) : assemble? (.rd a.toNat) = some [.read a] := by
  simp [assemble?, Line.WellFormed, fitsAddr_toNat]

section Digits
variable {ds : List Nat} (h : ∀ v ∈ ds, v ≤ 15)
include h

theorem assemble?_pushs : assemble? (.pushs ds) = some (pushesActions (nibblesOf ds)) := by
  rw [assemble?, Line.WellFormed, if_pos ((all_fitsNibble_iff ds).2 h)]

theorem assemble?_compute : assemble? (.compute ds) = some (computeActions (nibblesOf ds)) := by
  rw [assemble?, Line.WellFormed, if_pos ((all_fitsNibble_iff ds).2 h)]

theorem assemble?_isvalid : assemble? (.isvalid ds) = some (isvalidActions (nibblesOf ds)) := by
  rw [assemble?, Line.WellFormed, if_pos ((all_fitsNibble_iff ds).2 h)]

end Digits

/-- Settles O6: each line's actions, with a digit's PUSH as its byte. -/
theorem scriptLinesExpandAsStated : Obligations.ScriptLinesExpandAsStated := by
  refine ⟨fun v hv => ?push, rfl, rfl, rfl, rfl, assemble?_byte, assemble?_wr, assemble?_rd,
    fun ds h => ⟨?pushs, ?compute, ?isvalid⟩⟩
  case push => rw [assemble?_push hv, commandAction_push hv]
  case pushs => rw [assemble?_pushs h, pushesActions_nibblesOf h]
  case compute =>
    rw [assemble?_compute h, computeActions, pushesActions_nibblesOf h]
    rfl
  case isvalid =>
    rw [assemble?_isvalid h, isvalidActions, pushesActions_nibblesOf h]
    rfl

end Sys2Proof.Machine
end

section
/-! The rules of spec/40_tables.md. `D` is the dihedral group of order ten under other names, so its laws and those of
`INV` are Mathlib's group laws carried back; the rows of `P` are the iterates of row 1; the fold is the product of its
factors. -/
namespace Sys2Proof.Machine

/-! ### The literals (R90, R92, R94) -/

/-- Settles O42: each entry looked up is the entry of the literal. -/
theorem tablesHoldTheLiterals : Obligations.TablesHoldTheLiterals := by
  refine ⟨?d, ?inv, ?p⟩
  case d => decide
  case inv => decide
  case p => decide

/-! ### `D` as the dihedral group (R91) -/

/-- The element of the dihedral group that a Digit names: 0..4 are the rotations, 5..9 the reflections. Mathlib's
reflection `sr i` turns the other way, whence the sign. -/
def toDihedral (a : Digit) : DihedralGroup 5 :=
  if a.val < 5 then .r a.val else .sr (-a.val)

theorem toDihedral_injective : Function.Injective toDihedral := by
  unfold Function.Injective
  decide

theorem toDihedral_zero : toDihedral 0 = 1 := rfl

theorem toDihedral_mul : ∀ a b : Digit, toDihedral (mul a b) = toDihedral a * toDihedral b := by decide

theorem toDihedral_inv : ∀ a : Digit, toDihedral (inv a) = (toDihedral a)⁻¹ := by decide

@[simp] theorem mul_zero_left (a : Digit) : mul 0 a = a :=
  toDihedral_injective (by rw [toDihedral_mul, toDihedral_zero, one_mul])

@[simp] theorem mul_zero_right (a : Digit) : mul a 0 = a :=
  toDihedral_injective (by rw [toDihedral_mul, toDihedral_zero, mul_one])

theorem mul_mul_assoc (a b c : Digit) : mul (mul a b) c = mul a (mul b c) :=
  toDihedral_injective (by simp only [toDihedral_mul, mul_assoc])

theorem mul_cancel_left {a b b' : Digit} (h : mul a b = mul a b') : b = b' := by
  have hd := congrArg toDihedral h
  rw [toDihedral_mul, toDihedral_mul] at hd
  exact toDihedral_injective (mul_left_cancel hd)

theorem mul_cancel_right {a a' b : Digit} (h : mul a b = mul a' b) : a = a' := by
  have hd := congrArg toDihedral h
  rw [toDihedral_mul, toDihedral_mul] at hd
  exact toDihedral_injective (mul_right_cancel hd)

/-- Settles O43: the group laws come from the dihedral group; the closed form is a fact about the 100 entries. -/
theorem multiplicationTableIsAGroup : Obligations.MultiplicationTableIsAGroup := by
  refine ⟨fun _ _ _ => mul_cancel_left, fun _ _ _ => mul_cancel_right, fun a => ⟨mul_zero_left a, mul_zero_right a⟩,
    mul_mul_assoc, ?closedForm, ?notCommuting, rfl, rfl⟩
  case closedForm => decide
  case notCommuting => decide

/-! ### `INV` (R93) -/

@[simp] theorem mul_inv_self (a : Digit) : mul a (inv a) = 0 :=
  toDihedral_injective (by rw [toDihedral_mul, toDihedral_inv, mul_inv_cancel, toDihedral_zero])

@[simp] theorem inv_mul_self (a : Digit) : mul (inv a) a = 0 :=
  toDihedral_injective (by rw [toDihedral_mul, toDihedral_inv, inv_mul_cancel, toDihedral_zero])

theorem mul_eq_zero_iff_eq_inv {a b : Digit} : mul a b = 0 ↔ b = inv a := by
  constructor
  · intro h
    exact mul_cancel_left (h.trans (mul_inv_self a).symm)
  · rintro rfl
    exact mul_inv_self a

@[simp] theorem inv_inv_self (a : Digit) : inv (inv a) = a :=
  (mul_eq_zero_iff_eq_inv.1 (inv_mul_self a)).symm

theorem inv_injective : Function.Injective inv :=
  Function.LeftInverse.injective inv_inv_self

/-- Settles O44: the laws are the group's; the values are read off the ten entries. -/
theorem inverseTableInverts : Obligations.InverseTableInverts := by
  refine ⟨fun a => ⟨mul_inv_self a, inv_mul_self a, inv_inv_self a⟩, fun _ _ => mul_eq_zero_iff_eq_inv.1,
    fun _ _ h => inv_injective h, ?rotation, ?reflection⟩
  case rotation => decide
  case reflection => decide

/-! ### The rows of `P` (R95) -/

@[simp] theorem perm_zero (v : Digit) : perm 0 v = v := by
  revert v
  decide

/-- Row 0 follows row 7: row 1 has period 8. -/
theorem perm_succ : ∀ (k : Row) (v : Digit), perm (k + 1) v = perm 1 (perm k v) := by decide

theorem perm_one_injective : Function.Injective (perm 1) := by
  unfold Function.Injective
  decide

theorem perm_injective (k : Row) : Function.Injective (perm k) := by
  induction k using Fin.induction with
  | zero => exact fun v v' h => by simpa using h
  | succ i ih =>
    have hrow : perm i.succ = perm 1 ∘ perm i.castSucc := by
      funext v
      rw [← Fin.coeSucc_eq_succ, perm_succ, Function.comp_apply]
    rw [hrow]
    exact perm_one_injective.comp ih

/-- The anti-transposition property at row 0, where the two adjacent rows are the identity and row 1. -/
theorem mul_perm_one_ne : ∀ x y : Digit, x ≠ y → mul x (perm 1 y) ≠ mul y (perm 1 x) := by decide

/-- The property at row `k` is that at row 0 for the images under row `k`, which is injective. -/
theorem mul_perm_perm_succ_ne (k : Row) {a b : Digit} (h : a ≠ b) :
    mul (perm k a) (perm (k + 1) b) ≠ mul (perm k b) (perm (k + 1) a) := by
  rw [perm_succ, perm_succ]
  exact mul_perm_one_ne _ _ ((perm_injective k).ne h)

/-- Settles O45: all follows from row 1 alone, and from each row being row 1 after the one before. -/
theorem permutationRowsArePowers : Obligations.PermutationRowsArePowers := by
  refine ⟨fun k _ _ h => perm_injective k h, perm_zero, perm_succ, ⟨?cycle, rfl, rfl, rfl⟩,
    fun k _ _ => mul_perm_perm_succ_ne k⟩
  case cycle => decide

/-! ### The fold as the indexed loop (R100) -/

@[simp] theorem workLoop_idx (o : Nat) (ds : List Digit) : (workLoop o ds).idx = ds.length := by
  induction ds with
  | nil => rfl
  | cons v ds ih => rw [workLoop_cons, workStep_idx, ih, List.length_cons]

theorem fold_cons (o : Nat) (v : Digit) (ds : List Digit) :
    fold (v :: ds) o = fstep (fold ds o) (rowAt ds.length o) v := by
  rw [fold, workLoop_cons, workStep_acc, workLoop_idx, fold]

@[simp] theorem cellDigit_cons_zero (v : Nibble) (m : Memory) : cellDigit (v :: m) 0 = Fin.ofNat 10 v.toNat := rfl

@[simp] theorem cellDigit_cons_succ (v : Nibble) (m : Memory) (k : Nat) :
    cellDigit (v :: m) (k + 1) = cellDigit m k := rfl

theorem ofNat_nibbleOfDigit_toNat (d : Digit) : Fin.ofNat 10 (nibbleOfDigit d).toNat = d := by
  rw [nibbleOfDigit_toNat]
  exact Fin.ofNat_val_eq_self d

/-- The last pass reads cell 0; the passes before it read what they read without that cell. -/
theorem indexedFold_cons (o : Nat) (v : Nibble) (m : Memory) :
    indexedFold (v :: m) o = fstep (indexedFold m o) (rowAt m.length o) (Fin.ofNat 10 v.toNat) := by
  have hcell : ∀ i ∈ List.range m.length, cellDigit (v :: m) (m.length - i) = cellDigit m (m.length - 1 - i) := by
    intro i hi
    have hsucc : m.length - i = m.length - 1 - i + 1 := by
      have := List.mem_range.1 hi
      omega
    rw [hsucc, cellDigit_cons_succ]
  have hpasses := List.foldl_ext _ _ (0 : Digit) fun acc i hi => congrArg (fstep acc (rowAt i o)) (hcell i hi)
  simp only [indexedFold, List.length_cons, List.range_succ, List.foldl_append, Nat.add_sub_cancel, hpasses,
    List.foldl_cons, List.foldl_nil, Nat.sub_self, cellDigit_cons_zero]

theorem fold_eq_indexedFold (ds : List Digit) (o : Nat) : fold ds o = indexedFold (ds.map nibbleOfDigit) o := by
  induction ds with
  | nil => rfl
  | cons v ds ih =>
    rw [fold_cons, List.map_cons, indexedFold_cons, List.length_map, ofNat_nibbleOfDigit_toNat, ih]

/-! ### The fold as a product (R100) -/

/-- The loop from any working registers: what stands in `ACC` times the factors from row `IDX + o` on. -/
theorem foldl_workStep_acc (o : Nat) (s : List Digit) (w : Work) :
    (s.foldl (workStep o) w).acc = (factorsFrom (w.idx + o) s).foldl mul w.acc := by
  induction s generalizing w with
  | nil => rfl
  | cons v s ih =>
    have hrow : rowAt w.idx o = rowAt 0 (w.idx + o) := by rw [rowAt, rowAt, Nat.zero_add]
    rw [List.foldl_cons, ih, workStep_acc, workStep_idx, fstep, hrow, Nat.add_right_comm, factorsFrom, List.foldl_cons]

theorem fold_eq_foldl_mul (ds : List Digit) (o : Nat) : fold ds o = (factorsFrom o ds.reverse).foldl mul 0 := by
  rw [fold, workLoop, foldl_workStep_acc, workStart, Nat.zero_add]

/-- A product in the group may be bracketed from either end: the identity it starts from commutes. -/
theorem foldl_mul_eq_foldr_mul (xs : List Digit) : xs.foldl mul 0 = xs.foldr mul 0 := by
  have : Std.Associative mul := ⟨mul_mul_assoc⟩
  exact List.foldl_eq_foldr_of_commute fun x => (mul_zero_left x).trans (mul_zero_right x).symm

theorem getElem?_factorsFrom (o i : Nat) (s : List Digit) :
    (factorsFrom o s)[i]? = s[i]?.map (perm (rowAt i o)) := by
  induction s generalizing o i with
  | nil => rfl
  | cons v s ih =>
    cases i with
    | zero => rfl
    | succ i => rw [factorsFrom, List.getElem?_cons_succ, List.getElem?_cons_succ, ih, rowAt_succ]

/-- Settles O46: by the two equations of the loop at its last cell, and by associativity for the bracketing. -/
theorem foldIsTheIndexedProduct : Obligations.FoldIsTheIndexedProduct := by
  refine ⟨fold_eq_indexedFold, fold_nil, fun ds o => ⟨fold_eq_foldl_mul ds o, ?right⟩, fun ds o i h => ?factor⟩
  case right => rw [fold_eq_foldl_mul, foldl_mul_eq_foldr_mul]
  case factor =>
    rw [getElem?_factorsFrom, List.getElem?_reverse h, List.getElem?_eq_getElem (by omega), Option.map_some]

end Sys2Proof.Machine
end

section
/-! The rules of spec/41_buffer_commands.md: what a run without CLR or Reset keeps, what GEN and VAL then report; then
the statements. -/
namespace Sys2Proof.Machine

/-! ### Runs without CLR or Reset -/

theorem not_nextClears_of_noClearWithin_succ {k : Nat} {s : State} (h : noClearWithin (k + 1) s) : ¬ s.nextClears :=
  h 0 s k.succ_pos (runSteps_zero s)

theorem noClearWithin_of_step {k : Nat} {s t : State} (h : noClearWithin (k + 1) s) (hstep : step s = .next t) :
    noClearWithin k t := by
  intro j u hj hu
  rw [← runSteps_succ_of_step j s t hstep] at hu
  exact h (j + 1) u (Nat.succ_lt_succ hj) hu

/-- What every step but a CLR or Reset keeps, every run without them keeps. -/
theorem runSteps_keeps_of_noClearWithin {P : State → Prop}
    (hstep : ∀ s t, P s → ¬ s.nextClears → step s = .next t → P t) (k : Nat) {s t : State}
    (hs : P s) (hn : noClearWithin k s) (h : runSteps k s = .next t) : P t := by
  induction k generalizing s with
  | zero =>
    obtain rfl : s = t := by simpa using h
    exact hs
  | succ k ih =>
    obtain ⟨u, hu, -⟩ := exists_step_stepCase s
    have hPu : P u := hstep s u hs (not_nextClears_of_noClearWithin_succ hn) hu
    rw [runSteps_succ_of_step k s u hu] at h
    exact ih hPu (noClearWithin_of_step hn hu) h

/-- `OVF` once set stays set: a further PUSH, too, either sets it or leaves it (R26). -/
theorem step_keeps_ovf {s t : State} (ho : s.status.ovf = true) (hn : ¬ s.nextClears) (h : step s = .next t) :
    t.status.ovf = true := by
  obtain ⟨-, hdropped, hkept⟩ := step_ovf h
  by_cases hfull : ∃ v, s.nextCommand? = some (.instr (.push v)) ∧ s.len = s.cfg.nmax.val
  · obtain ⟨v, hc, hl⟩ := hfull
    exact hdropped v hc hl
  · rw [hkept hn fun v hc hl => hfull ⟨v, hc, hl⟩]
    exact ho

theorem runSteps_keeps_ovf {k : Nat} {s t : State} (ho : s.status.ovf = true) (hn : noClearWithin k s)
    (h : runSteps k s = .next t) : t.status.ovf = true :=
  runSteps_keeps_of_noClearWithin (P := fun u => u.status.ovf = true) (fun _ _ => step_keeps_ovf) k ho hn h

/-- No step but a CLR or Reset removes or rewrites a live cell (R111, R112). -/
theorem buf_isPrefix_of_step {s t : State} (hn : ¬ s.nextClears) (h : step s = .next t) : s.buf <+: t.buf := by
  cases step_cases h with
  | pushed v _ _ _ ht => simp [ht, Memory.append]
  | cleared hn' _ => exact absurd hn' hn
  | dropped _ _ _ _ ht => simp [ht]
  | raised _ _ _ _ _ ht => simp [ht]
  | completed _ _ _ _ _ ht => simp [ht]
  | reserved _ _ _ ht => simp [ht]
  | inert _ _ _ ht => simp [ht]

theorem State.holdsBadNibble_iff {s : State} : s.holdsBadNibble ↔ ∃ v ∈ s.buf, 9 < v.toNat := by
  simp only [State.holdsBadNibble, Memory.read?, List.mem_iff_getElem?]
  constructor
  · rintro ⟨k, v, hv, h9⟩
    exact ⟨v, ⟨k, hv⟩, h9⟩
  · rintro ⟨v, ⟨k, hv⟩, h9⟩
    exact ⟨k, v, hv, h9⟩

/-- A bad nibble stays where it is (R162). -/
theorem step_keeps_holdsBadNibble {s t : State} (hb : s.holdsBadNibble) (hn : ¬ s.nextClears) (h : step s = .next t) :
    t.holdsBadNibble := by
  obtain ⟨v, hv, h9⟩ := State.holdsBadNibble_iff.1 hb
  exact State.holdsBadNibble_iff.2 ⟨v, (buf_isPrefix_of_step hn h).mem hv, h9⟩

theorem runSteps_keeps_holdsBadNibble {k : Nat} {s t : State} (hb : s.holdsBadNibble) (hn : noClearWithin k s)
    (h : runSteps k s = .next t) : t.holdsBadNibble :=
  runSteps_keeps_of_noClearWithin (fun _ _ => step_keeps_holdsBadNibble) k hb hn h

/-! ### What GEN and VAL then report -/

/-- A bad nibble is a live cell, so the operand check answers `InvalidDigit`, or `Overflow` before it (R165). -/
theorem State.sequence_of_holdsBadNibble {s : State} (hb : s.holdsBadNibble) :
    s.sequence = .error (if s.status.ovf = true then .overflow else .invalidDigit) := by
  obtain ⟨v, hv, h9⟩ := State.holdsBadNibble_iff.1 hb
  rcases s.sequence_cases with ⟨ho, hs⟩ | ⟨-, hnil, -⟩ | ⟨ho, -, -, hs⟩ | ⟨ds, -, -, hds, -⟩
  · rw [hs, if_pos ho]
  · rw [hnil] at hv
    exact absurd hv List.not_mem_nil
  · rw [hs, if_neg (by simp [ho])]
  · rw [hds] at hv
    obtain ⟨d, -, rfl⟩ := List.mem_map.1 hv
    rw [nibbleOfDigit_toNat] at h9
    omega

theorem exists_op_of_gen_or_val {i : Instr} (h : i = .gen ∨ i = .val) : ∃ op : Op, i = op.instr :=
  h.elim (⟨.gen, ·⟩) (⟨.val, ·⟩)

/-- The error of the operand check is the error that `ERR` reports (R166). -/
theorem err_of_exec_op_of_error (op : Op) {s t : State} {e : ErrorCond} (hs : s.sequence = .error e)
    (h : exec op.instr s = .next t) : t.status.err = some e := by
  rw [exec_op_of_error op hs] at h
  cases h
  rfl

/-! ### PUSH -/

theorem eq_markOverflow_of_exec_push {v : Nibble} {s t : State} (hl : s.len = s.cfg.nmax.val)
    (h : exec (.push v) s = .next t) : t = s.markOverflow := by
  rw [exec_push, execPush_of_full v hl] at h
  cases h
  rfl

theorem holdsBadNibble_appendCell {v : Nibble} (s : State) (h9 : 9 < v.toNat) : (s.appendCell v).holdsBadNibble :=
  ⟨s.buf.length, v, s.buf.read?_append_self v, h9⟩

/-- Settles O16: after the PUSH `OVF` is set or the bad nibble is live, the run keeps either, and the operand check
of the GEN or VAL finds it. -/
theorem pushFollowsItsRule : Obligations.PushFollowsItsRule := by
  refine ⟨fun v s => ⟨execPush_of_full v, execPush_of_not_full v⟩, ?later⟩
  case later =>
    intro v s t u w k i hi hpush hn hrun hexec
    obtain ⟨op, rfl⟩ := exists_op_of_gen_or_val hi
    refine ⟨fun hl => ?dropped, fun hl h9 => ?stored⟩
    case dropped =>
      obtain rfl := eq_markOverflow_of_exec_push hl hpush
      have ho : u.status.ovf = true := runSteps_keeps_ovf rfl hn hrun
      exact err_of_exec_op_of_error op (State.sequence_of_ovf ho) hexec
    case stored =>
      obtain rfl := eq_appendCell_of_exec_push hl hpush
      have hb : u.holdsBadNibble := runSteps_keeps_holdsBadNibble (holdsBadNibble_appendCell s h9) hn hrun
      rw [err_of_exec_op_of_error op (State.sequence_of_holdsBadNibble hb) hexec]
      split <;> rfl

end Sys2Proof.Machine
end

section
/-! The rules of spec/42_generate.md. What the operand check answers, case by case, and that it looks at the live cells
and `OVF` alone; then what GEN and VAL share on that account, and the statements about GEN. -/
namespace Sys2Proof.Machine

/-! ### The operand check, by its conditions (R160 to R165) -/

section Sequence
variable {s : State}

theorem State.sequence_of_len_eq_zero (ho : s.status.ovf = false) (hl : s.len = 0) :
    s.sequence = .error .emptyInput := by
  simp [State.sequence, ho, hl]

theorem State.sequence_of_holdsBadNibble_of_not_ovf (ho : s.status.ovf = false) (hb : s.holdsBadNibble) :
    s.sequence = .error .invalidDigit := by
  simp [State.sequence_of_holdsBadNibble hb, ho]

/-- Where no error is to be reported, the operand is there (R165). -/
theorem State.exists_sequence_ok (ho : s.status.ovf = false) (hl : s.len ≠ 0) (hb : ¬ s.holdsBadNibble) :
    ∃ ds, s.buf = ds.map nibbleOfDigit ∧ s.sequence = .ok ds := by
  rcases s.sequence_cases with ⟨ho', -⟩ | ⟨-, hnil, -⟩ | ⟨-, -, hbad, -⟩ | ⟨ds, -, -, hds, hs⟩
  · simp [ho] at ho'
  · exact absurd (List.length_eq_zero_iff.2 hnil) hl
  · exact absurd (State.holdsBadNibble_iff.2 hbad) hb
  · exact ⟨ds, hds, hs⟩

/-- The operand check looks at the live cells and `OVF` alone (R122, R132). -/
theorem State.sequence_congr {s₁ s₂ : State} (hbuf : s₁.buf = s₂.buf) (hovf : s₁.status.ovf = s₂.status.ovf) :
    s₁.sequence = s₂.sequence := by
  rw [State.sequence, State.sequence, State.len, State.len, hbuf, hovf]

end Sequence

/-! ### What GEN and VAL write (R122, R132) -/

/-- From the same live cells and `OVF`, GEN and VAL write the same. -/
theorem exec_op_writes_congr (op : Op) {s₁ s₂ : State} (hbuf : s₁.buf = s₂.buf)
    (hovf : s₁.status.ovf = s₂.status.ovf) :
    ∃ t₁ t₂ : State, exec op.instr s₁ = .next t₁ ∧ exec op.instr s₂ = .next t₂ ∧ t₁.result = t₂.result ∧
      t₁.status.done = t₂.status.done ∧ t₁.status.op = t₂.status.op ∧ t₁.status.err = t₂.status.err := by
  have hseq := State.sequence_congr hbuf hovf
  cases hs : s₂.sequence with
  | error e =>
    exact ⟨_, _, exec_op_of_error op (hseq.trans hs), exec_op_of_error op hs, rfl, rfl, rfl, rfl⟩
  | ok ds =>
    exact ⟨_, _, exec_op_of_ok op (hseq.trans hs), exec_op_of_ok op hs, rfl, rfl, rfl, rfl⟩

/-- GEN and VAL write `DONE`, `OP`, `ERR` and `RESULT` only, whether they fail or succeed. -/
theorem exec_op_writes_only (op : Op) {s t : State} (h : exec op.instr s = .next t) :
    t = { s with
      status := { s.status with done := t.status.done, op := t.status.op, err := t.status.err },
      result := t.result } := by
  rcases exec_op_cases op h with ⟨e, -, rfl⟩ | ⟨ds, -, rfl⟩
  · rfl
  · rfl

/-- Settles O24: purity, frame and idempotence of GEN and VAL, at GEN. -/
theorem genIsPure : Obligations.GenIsPure :=
  ⟨fun _ _ => exec_op_writes_congr .gen, fun _ _ h => ⟨exec_op_writes_only .gen h, exec_op_idempotent .gen h⟩⟩

/-! ### The check digit (R120, R121) -/

theorem genDigit_eq_inv_indexedFold (ds : List Digit) :
    genDigit ds = inv (indexedFold (ds.map nibbleOfDigit) 1) := by
  rw [genDigit, fold_eq_indexedFold]

/-- A GEN that has its operand, with the digit computed from the cells as they stand in the buffer. -/
theorem exec_gen_of_ok {s : State} {ds : List Digit} (hds : s.buf = ds.map nibbleOfDigit)
    (hs : s.sequence = .ok ds) :
    exec .gen s = .next
      (s.complete .gen { valid := false, digit := nibbleOfDigit (inv (indexedFold s.buf 1)) }) := by
  rw [hds, ← genDigit_eq_inv_indexedFold]
  exact exec_op_of_ok .gen hs

/-- `RESULT` with `VALID = 0` and a Digit reads as that Digit (R120). -/
theorem resultByte_of_digit (d : Digit) :
    resultByte { valid := false, digit := nibbleOfDigit d } = BitVec.ofNat 8 d.val := by
  revert d
  decide

/-- Settles O21: each case by what the operand check answers there; the digit by the loop written cell by cell. -/
theorem genFollowsItsRule : Obligations.GenFollowsItsRule := by
  refine ⟨fun s => ⟨fun ho => ?overflow, fun ho hl => ?empty, fun ho hb => ?invalid, fun ho hl hb => ?success⟩,
    fun ds => (genDigit_eq_inv_indexedFold ds).symm, resultByte_of_digit, ?examples⟩
  case overflow => exact exec_op_of_error .gen (State.sequence_of_ovf ho)
  case empty => exact exec_op_of_error .gen (State.sequence_of_len_eq_zero ho hl)
  case invalid => exact exec_op_of_error .gen (State.sequence_of_holdsBadNibble_of_not_ovf ho hb)
  case success =>
    obtain ⟨ds, hds, hs⟩ := State.exists_sequence_ok ho hl hb
    exact exec_gen_of_ok hds hs
  case examples => decide

end Sys2Proof.Machine
end

section
/-! The rules of spec/43_validate.md: the statements about VAL. What VAL shares with GEN stands above, for both; what
is left is the verdict. -/
namespace Sys2Proof.Machine

/-- Settles O25: purity, frame and idempotence of GEN and VAL, at VAL. -/
theorem valIsPure : Obligations.ValIsPure :=
  ⟨fun _ _ => exec_op_writes_congr .val, fun _ _ h => ⟨exec_op_writes_only .val h, exec_op_idempotent .val h⟩⟩

/-! ### The verdict (R130, R131) -/

theorem isValidSeq_eq_decide_indexedFold (ds : List Digit) :
    isValidSeq ds = decide (indexedFold (ds.map nibbleOfDigit) 0 = 0) := by
  rw [isValidSeq, fold_eq_indexedFold]

/-- A VAL that has its operand, with the verdict computed from the cells as they stand in the buffer. -/
theorem exec_val_of_ok {s : State} {ds : List Digit} (hds : s.buf = ds.map nibbleOfDigit)
    (hs : s.sequence = .ok ds) :
    exec .val s = .next
      (s.complete .val { valid := decide (indexedFold s.buf 0 = 0), digit := 0xF#4 }) := by
  rw [hds, ← isValidSeq_eq_decide_indexedFold]
  exact exec_op_of_ok .val hs

/-- `RESULT` with `DIGIT = 0xF` reads as its verdict (R130). -/
theorem resultByte_of_verdict (b : Bool) :
    resultByte { valid := b, digit := 0xF#4 } = if b = true then 0x1F#8 else 0x0F#8 := by
  cases b <;> rfl

/-- Row 0 leaves a Digit as it is, so a single Digit is its own syndrome. -/
theorem fold_singleton_zero (v : Digit) : fold [v] 0 = v := by
  have hrow : rowAt 0 0 = 0 := rfl
  simp [fold_cons, fstep, hrow]

theorem isValidSeq_singleton_iff (v : Digit) : isValidSeq [v] = true ↔ v = 0 := by
  rw [isValidSeq, fold_singleton_zero, decide_eq_true_iff]

/-- Settles O22: each case by what the operand check answers there; the verdict by the loop written cell by cell. -/
theorem valFollowsItsRule : Obligations.ValFollowsItsRule := by
  refine ⟨fun s => ⟨fun ho => ?overflow, fun ho hl => ?empty, fun ho hb => ?invalid, fun ho hl hb => ?success⟩,
    fun ds => (isValidSeq_eq_decide_indexedFold ds).symm, resultByte_of_verdict, isValidSeq_singleton_iff,
    ?examples⟩
  case overflow => exact exec_op_of_error .val (State.sequence_of_ovf ho)
  case empty => exact exec_op_of_error .val (State.sequence_of_len_eq_zero ho hl)
  case invalid => exact exec_op_of_error .val (State.sequence_of_holdsBadNibble_of_not_ovf ho hb)
  case success =>
    obtain ⟨ds, hds, hs⟩ := State.exists_sequence_ok ho hl hb
    exact exec_val_of_ok hds hs
  case examples => decide

end Sys2Proof.Machine
end

section
/-! The rules of spec/44_host_functions.md about the two functions themselves (R144 to R149). The fold of a sequence
cut in two is the product of the two folds; each law is cancellation in that product at the place where two sequences
differ. -/
namespace Sys2Proof.Machine

/-! ### The fold of a sequence cut in two -/

/-- The right part is folded first, and the left part's rows start where it stops. -/
theorem fold_append (xs ys : List Digit) (o : Nat) :
    fold (xs ++ ys) o = mul (fold ys o) (fold xs (o + ys.length)) := by
  induction xs with
  | nil => simp
  | cons v xs ih =>
    have hrow : rowAt (xs ++ ys).length o = rowAt xs.length (o + ys.length) := by
      rw [rowAt, rowAt, List.length_append]
      congr 1
      omega
    rw [List.cons_append, fold_cons, fold_cons, ih, hrow, fstep, fstep, mul_mul_assoc]

/-- What the parts fold to does not matter where two sequences share them: the middle parts decide. -/
theorem fold_append_append_inj {xs mid mid' ys : List Digit} {o : Nat} (hl : mid.length = mid'.length)
    (h : fold (xs ++ (mid ++ ys)) o = fold (xs ++ (mid' ++ ys)) o) :
    fold mid (o + ys.length) = fold mid' (o + ys.length) := by
  rw [fold_append, fold_append xs, fold_append mid, fold_append mid', List.length_append, List.length_append, hl] at h
  exact mul_cancel_left (mul_cancel_right h)

theorem fold_singleton (v : Digit) (o : Nat) : fold [v] o = perm (rowAt 0 o) v := by
  simp [fold_cons, fstep]

theorem rowAt_one (o : Nat) : rowAt 1 o = rowAt 0 o + 1 := by
  apply Fin.ext
  simp only [rowAt, Fin.val_ofNat, Fin.val_add]
  omega

/-- Two adjacent Digits meet two successive rows. -/
theorem fold_pair (a b : Digit) (o : Nat) :
    fold [a, b] o = mul (perm (rowAt 0 o) b) (perm (rowAt 0 o + 1) a) := by
  rw [fold_cons, fold_singleton, fstep, List.length_singleton, rowAt_one]

theorem fold_singleton_injective (o : Nat) : Function.Injective fun v => fold [v] o := by
  intro v v' h
  simp only [fold_singleton] at h
  exact perm_injective _ h

theorem fold_pair_swap_ne {a b : Digit} (h : a ≠ b) (o : Nat) : fold [a, b] o ≠ fold [b, a] o := by
  rw [fold_pair, fold_pair]
  exact mul_perm_perm_succ_ne (rowAt 0 o) h.symm

/-! ### The check digit (R144, R148, R149) -/

/-- The check digit meets row 0, the identity, and the payload the rows that GEN gives it (R149). -/
theorem fold_snoc_zero (ds : List Digit) (k : Digit) : fold (ds ++ [k]) 0 = mul k (fold ds 1) := by
  rw [fold_append, fold_singleton_zero, List.length_singleton]

theorem isValidSeq_iff (ds : List Digit) : isValidSeq ds = true ↔ fold ds 0 = 0 := by
  rw [isValidSeq, decide_eq_true_iff]

theorem inv_involutive : Function.Involutive inv := inv_inv_self

theorem isValidSeq_snoc_iff (ds : List Digit) (k : Digit) : isValidSeq (ds ++ [k]) = true ↔ k = genDigit ds := by
  rw [isValidSeq_iff, fold_snoc_zero, mul_eq_zero_iff_eq_inv, @eq_comm _ (fold ds 1), inv_involutive.eq_iff, genDigit]

theorem isValidSeq_snoc_genDigit (ds : List Digit) : isValidSeq (ds ++ [genDigit ds]) = true :=
  (isValidSeq_snoc_iff ds _).2 rfl

/-- Settles O53: the fold cut before the check digit. -/
theorem schedulesAreRelated : Obligations.SchedulesAreRelated :=
  ⟨fold_snoc_zero, fun ds => (fold_snoc_zero ds 0).trans (mul_zero_left _)⟩

/-- Settles O52: the check digit is the inverse of the payload's fold. -/
theorem checkDigitIsUnique : Obligations.CheckDigitIsUnique :=
  fun ds k _ => isValidSeq_snoc_iff ds k

/-- Settles O49, from the uniqueness of the check digit. -/
theorem checkDigitRoundTrip : Obligations.CheckDigitRoundTrip :=
  fun ds _ => isValidSeq_snoc_genDigit ds

/-! ### The errors detected (R145, R146) -/

/-- A part replaced by one of another fold makes a valid sequence not valid. -/
theorem isValidSeq_eq_false_of_replaced {xs mid mid' ys : List Digit}
    (hv : isValidSeq (xs ++ (mid ++ ys)) = true) (hl : mid.length = mid'.length)
    (hne : fold mid ys.length ≠ fold mid' ys.length) : isValidSeq (xs ++ (mid' ++ ys)) = false := by
  rw [Bool.eq_false_iff]
  intro hv'
  have hfold := ((isValidSeq_iff _).1 hv).trans ((isValidSeq_iff _).1 hv').symm
  have hmid := fold_append_append_inj hl hfold
  rw [Nat.zero_add] at hmid
  exact hne hmid

/-- Settles O50: the digit changed is a part of one Digit, and the rows of `P` are injective. -/
theorem singleDigitErrorsAreDetected : Obligations.SingleDigitErrorsAreDetected := by
  intro ds i h v hv hne
  have hset : ds.set i v = ds.take i ++ ([v] ++ ds.drop (i + 1)) := List.set_eq_take_append_cons_drop.trans (if_pos h)
  have hds : ds = ds.take i ++ ([ds[i]] ++ ds.drop (i + 1)) := by
    rw [List.singleton_append, List.getElem_cons_drop, List.take_append_drop]
  rw [hds] at hv
  rw [hset]
  exact isValidSeq_eq_false_of_replaced hv rfl fun hf => hne (fold_singleton_injective _ hf).symm

theorem set_set_append_pair {α : Type} {xs : List α} {i : Nat} (hi : xs.length = i) (ys : List α) (a b c d : α) :
    ((xs ++ ([a, b] ++ ys)).set i c).set (i + 1) d = xs ++ ([c, d] ++ ys) := by
  subst hi
  simp

/-- Settles O51: the pair swapped is a part of two Digits, and `P` has the anti-transposition property. -/
theorem adjacentTranspositionsAreDetected : Obligations.AdjacentTranspositionsAreDetected := by
  intro ds i h hv hne
  have hds : ds = ds.take i ++ ([ds[i], ds[i + 1]] ++ ds.drop (i + 2)) := by
    rw [List.cons_append, List.singleton_append, List.getElem_cons_drop, List.getElem_cons_drop,
      List.take_append_drop]
  have hlen : (ds.take i).length = i := List.length_take_of_le (by omega)
  have hswap := calc (ds.set i ds[i + 1]).set (i + 1) ds[i]
    _ = ((ds.take i ++ ([ds[i], ds[i + 1]] ++ ds.drop (i + 2))).set i ds[i + 1]).set (i + 1) ds[i] := by rw [← hds]
    _ = ds.take i ++ ([ds[i + 1], ds[i]] ++ ds.drop (i + 2)) := set_set_append_pair hlen _ _ _ _ _
  rw [hds] at hv
  rw [hswap]
  exact isValidSeq_eq_false_of_replaced hv rfl (fold_pair_swap_ne hne _)

end Sys2Proof.Machine
end

section
/-! The rules of spec/44_host_functions.md about the two functions at the host port (R140 to R143). A host sequence is
put together from its parts: what the engine does when it is presented one list of actions and then another. -/
namespace Sys2Proof.Machine

/-! ### Host actions presented in sequence -/

/-- `s` with the bytes `bs` returned since. -/
def State.answering (s : State) (bs : List Byte) : State := { s with returned := s.returned ++ bs }

@[simp] theorem State.answering_buf (s : State) (bs : List Byte) : (s.answering bs).buf = s.buf := rfl
@[simp] theorem State.answering_returned (s : State) (bs : List Byte) :
    (s.answering bs).returned = s.returned ++ bs := rfl

/-- The engine in state `s`, presented with `acts` before whatever else, takes them all and is then in state `t`. What
is pending in `s` and `t` themselves does not matter. -/
def Runs (acts : List HostAction) (s t : State) : Prop :=
  ∀ rest, runSteps acts.length { s with pending := acts ++ rest } = .next { t with pending := rest }

/-- The run from a state with `acts` pending, as the statements have it. -/
theorem Runs.runSteps {acts rest : List HostAction} {s t : State} (h : Runs acts s t)
    (hp : s.pending = acts ++ rest) : runSteps acts.length s = .next { t with pending := rest } := by
  rw [← h rest, ← hp]

theorem Runs.nil (s : State) : Runs [] s s := fun _ => rfl

theorem Runs.append {acts acts' : List HostAction} {s t u : State} (h : Runs acts s t) (h' : Runs acts' t u) :
    Runs (acts ++ acts') s u := by
  intro rest
  rw [List.length_append, List.append_assoc, runSteps_add _ _ _ _ (h (acts' ++ rest)), h' rest]

theorem Runs.cons {act : HostAction} {acts : List HostAction} {s t u : State} (h : Runs [act] s t)
    (h' : Runs acts t u) : Runs (act :: acts) s u :=
  h.append h'

/-- An action's transaction, where it goes through without regard to what is pending. -/
theorem Runs.of_transact {act : HostAction} {s t : State}
    (h : ∀ rest, transact act { s with pending := rest } = .next { t with pending := rest }) : Runs [act] s t := by
  intro rest
  have hstep := (step_of_pending { s with pending := act :: rest } act rest rfl).trans (h rest)
  rw [List.length_singleton, List.singleton_append, runSteps_succ_of_step 0 _ _ hstep, runSteps_zero]

theorem Runs.read (a : Addr) (s : State) : Runs [.read a] s (s.answering [hostReadByte a s]) :=
  Runs.of_transact fun _ => rfl

theorem exec_op_pending (op : Op) {s t : State} (h : exec op.instr s = .next t) (rest : List HostAction) :
    exec op.instr { s with pending := rest } = .next { t with pending := rest } := by
  rcases exec_op_cases op h with ⟨e, hs, rfl⟩ | ⟨ds, hs, rfl⟩
  · exact exec_op_of_error op hs
  · exact exec_op_of_ok op hs

/-- A command neither reads nor writes the host actions not yet presented. -/
theorem exec_pending {i : Instr} {s t : State} (h : exec i s = .next t) (rest : List HostAction) :
    exec i { s with pending := rest } = .next { t with pending := rest } := by
  cases i with
  | push v =>
    by_cases hl : s.len = s.cfg.nmax.val
    · obtain rfl := eq_markOverflow_of_exec_push hl h
      exact execPush_of_full v hl
    · obtain rfl := eq_appendCell_of_exec_push hl h
      exact execPush_of_not_full v hl
  | gen => exact exec_op_pending .gen h rest
  | val => exact exec_op_pending .val h rest
  | clr =>
    cases h
    rfl

theorem Runs.command {i : Instr} {s t : State} (h : exec i s = .next t) : Runs [commandAction i] s t := by
  refine Runs.of_transact fun rest => ?_
  rw [commandAction, transact, hostWrite_cmd, executeWord_of_instr (decode_encode i)]
  exact exec_pending h rest

/-! ### PUSHes in sequence (R79, R112) -/

/-- `s` after PUSHes of `ds`: as many nibbles appended as there were free cells, and `OVF` set if one was dropped. -/
def State.loaded (s : State) (ds : List Nibble) : State :=
  { s with
    buf := s.buf ++ ds.take (s.cfg.nmax.val - s.len)
    status := { s.status with ovf := s.status.ovf || decide (s.cfg.nmax.val < s.len + ds.length) } }

theorem State.loaded_of_fits {s : State} {ds : List Nibble} (h : s.len + ds.length ≤ s.cfg.nmax.val) :
    s.loaded ds = { s with buf := s.buf ++ ds } := by
  rw [State.loaded, List.take_of_length_le (by omega), decide_eq_false (by omega), Bool.or_false]

theorem State.loaded_ovf_of_not_fits {s : State} {ds : List Nibble} (h : s.cfg.nmax.val < s.len + ds.length) :
    (s.loaded ds).status.ovf = true := by
  simp [State.loaded, h]

/-- A PUSH into a full buffer, and the PUSHes after it. -/
theorem State.loaded_markOverflow {s : State} (hl : s.len = s.cfg.nmax.val) (v : Nibble) (ds : List Nibble) :
    s.markOverflow.loaded ds = s.loaded (v :: ds) := by
  have hroom : s.cfg.nmax.val - s.len = 0 := by omega
  have hover : s.cfg.nmax.val < s.len + (ds.length + 1) := by omega
  simp [State.loaded, hroom, hover]

/-- A PUSH into a free cell, and the PUSHes after it. -/
theorem State.loaded_appendCell {s : State} (hl : s.len < s.cfg.nmax.val) (v : Nibble) (ds : List Nibble) :
    (s.appendCell v).loaded ds = s.loaded (v :: ds) := by
  have hfree : s.cfg.nmax.val - s.len = s.cfg.nmax.val - (s.len + 1) + 1 := by omega
  have hsum : s.len + 1 + ds.length = s.len + (ds.length + 1) := by omega
  rw [State.loaded, State.loaded, State.appendCell_len, State.appendCell_cfg, List.length_cons, hfree, hsum]
  simp [State.appendCell, Memory.append]

theorem runs_pushes (ds : List Nibble) {s : State} (hl : s.len ≤ s.cfg.nmax.val) :
    Runs (pushesActions ds) s (s.loaded ds) := by
  induction ds generalizing s with
  | nil =>
    have hload : s.loaded [] = s := by
      rw [State.loaded_of_fits (by simpa using hl), List.append_nil]
    rw [hload]
    exact Runs.nil s
  | cons v ds ih =>
    by_cases hfull : s.len = s.cfg.nmax.val
    · rw [← State.loaded_markOverflow hfull v]
      exact (Runs.command ((exec_push v s).trans (execPush_of_full v hfull))).cons (ih hl)
    · have hlt : s.len < s.cfg.nmax.val := by omega
      rw [← State.loaded_appendCell hlt v]
      refine (Runs.command ((exec_push v s).trans (execPush_of_not_full v hfull))).cons (ih ?_)
      rw [State.appendCell_len, State.appendCell_cfg]
      omega

/-! ### GEN or VAL, and the two reads after it -/

/-- `s` after the GEN or VAL that `op` names. -/
def State.finish (s : State) (op : Op) : State :=
  match s.sequence with
  | .error e => s.raise e op
  | .ok ds => s.complete op (op.resultOf ds)

theorem State.finish_of_error {s : State} {e : ErrorCond} (op : Op) (h : s.sequence = .error e) :
    s.finish op = s.raise e op := by
  simp [State.finish, h]

theorem State.finish_of_ok {s : State} {ds : List Digit} (op : Op) (h : s.sequence = .ok ds) :
    s.finish op = s.complete op (op.resultOf ds) := by
  simp [State.finish, h]

theorem exec_op_eq_finish (op : Op) (s : State) : exec op.instr s = .next (s.finish op) := by
  cases hs : s.sequence with
  | error e => rw [exec_op_of_error op hs, State.finish_of_error op hs]
  | ok ds => rw [exec_op_of_ok op hs, State.finish_of_ok op hs]

@[simp] theorem State.finish_returned (s : State) (op : Op) : (s.finish op).returned = s.returned :=
  exec_op_returned op (exec_op_eq_finish op s)

/-- The bytes of `STATUS` and `RESULT`. -/
def State.reply (s : State) : List Byte := [statusByte s.status, resultByte s.result]

theorem runs_reads (s : State) : Runs [.read addrStatus, .read addrResult] s (s.answering s.reply) := by
  have hreads := (Runs.read addrStatus s).cons (Runs.read addrResult _)
  simpa [State.answering, State.reply] using hreads

/-- The end of `COMPUTE` and of `ISVALID` (R79). -/
def opReads (op : Op) : List HostAction := [commandAction op.instr, .read addrStatus, .read addrResult]

theorem runs_opReads (op : Op) (s : State) : Runs (opReads op) s ((s.finish op).answering (s.finish op).reply) :=
  (Runs.command (exec_op_eq_finish op s)).cons (runs_reads (s.finish op))

/-- The reply is determined by the live cells and `STATUS` (R122, R132). -/
theorem State.reply_finish_congr (op : Op) {s₁ s₂ : State} (hbuf : s₁.buf = s₂.buf) (hst : s₁.status = s₂.status) :
    (s₁.finish op).reply = (s₂.finish op).reply := by
  have hseq := State.sequence_congr hbuf (congrArg Status.ovf hst)
  cases hs : s₂.sequence with
  | error e => simp [State.reply, State.finish_of_error op hs, State.finish_of_error op (hseq.trans hs), hst]
  | ok ds => simp [State.reply, State.finish_of_ok op hs, State.finish_of_ok op (hseq.trans hs), hst]

/-! ### `COMPUTE` and `ISVALID` -/

/-- `COMPUTE` and `ISVALID`, which differ in the command only (R79). -/
def opActions (op : Op) (ds : List Nibble) : List HostAction :=
  commandAction .clr :: (pushesActions ds ++ opReads op)

theorem computeActions_eq (ds : List Nibble) : computeActions ds = opActions .gen ds := rfl

theorem isvalidActions_eq (ds : List Nibble) : isvalidActions ds = opActions .val ds := rfl

@[simp] theorem opActions_length (op : Op) (ds : List Nibble) : (opActions op ds).length = ds.length + 4 := by
  simp [opActions, pushesActions, opReads]

/-- The engine after `op` on the sequence `ds`, from `s` cleared. -/
def State.computed (s : State) (op : Op) (ds : List Nibble) : State := (s.clearEngine.loaded ds).finish op

@[simp] theorem State.computed_returned (s : State) (op : Op) (ds : List Nibble) :
    (s.computed op ds).returned = s.returned :=
  State.finish_returned _ op

/-- The sequence without its CLR, in the reset state. -/
theorem runs_opActions_tail (op : Op) (ds : List Nibble) (s : State) :
    Runs (opActions op ds).tail s.clearEngine ((s.computed op ds).answering (s.computed op ds).reply) :=
  (runs_pushes ds (Nat.zero_le _)).append (runs_opReads op _)

theorem runs_opActions (op : Op) (ds : List Nibble) (s : State) :
    Runs (opActions op ds) s ((s.computed op ds).answering (s.computed op ds).reply) :=
  (Runs.command (exec_clr s)).cons (runs_opActions_tail op ds s)

theorem exists_run_opActions (op : Op) {s : State} {ds : List Nibble} {rest : List HostAction}
    (hp : s.pending = opActions op ds ++ rest) :
    ∃ t : State, runSteps (ds.length + 4) s = .next t ∧ t.pending = rest ∧
      t.returned = s.returned ++ (s.computed op ds).reply := by
  rw [← opActions_length op ds]
  exact ⟨_, (runs_opActions op ds s).runSteps hp, rfl, by simp⟩

/-- The same without the CLR, which changes nothing in the reset state. -/
theorem exists_run_opActions_tail (op : Op) {s : State} {ds : List Nibble} {rest : List HostAction}
    (hs : s.clearEngine = s) (hp : s.pending = (opActions op ds).tail ++ rest) :
    ∃ t : State, runSteps (ds.length + 3) s = .next t ∧ t.pending = rest ∧
      t.returned = s.returned ++ (s.computed op ds).reply := by
  have hlen : (opActions op ds).tail.length = ds.length + 3 := by simp
  have hrun := runs_opActions_tail op ds s
  rw [hs] at hrun
  rw [← hlen]
  exact ⟨_, hrun.runSteps hp, rfl, by simp⟩

/-- What stood in the engine before plays no part: of the state only the capacity does (R143). -/
theorem State.reply_computed_congr (op : Op) (ds : List Nibble) {s₁ s₂ : State} (hc : s₁.cfg = s₂.cfg) :
    (s₁.computed op ds).reply = (s₂.computed op ds).reply :=
  State.reply_finish_congr op (by simp [State.loaded, hc]) (by simp [State.loaded, hc])

theorem exists_runs_opActions_same_reply (op : Op) {s₁ s₂ : State} {ds : List Nibble}
    {rest₁ rest₂ : List HostAction} (hc : s₁.cfg = s₂.cfg) (hp₁ : s₁.pending = opActions op ds ++ rest₁)
    (hp₂ : s₂.pending = opActions op ds ++ rest₂) :
    ∃ (t₁ t₂ : State) (reply : List Byte),
      runSteps (ds.length + 4) s₁ = .next t₁ ∧ runSteps (ds.length + 4) s₂ = .next t₂ ∧
      t₁.returned = s₁.returned ++ reply ∧ t₂.returned = s₂.returned ++ reply ∧ reply.length = 2 := by
  obtain ⟨t₁, hrun₁, -, hret₁⟩ := exists_run_opActions op hp₁
  obtain ⟨t₂, hrun₂, -, hret₂⟩ := exists_run_opActions op hp₂
  rw [← State.reply_computed_congr op ds hc] at hret₂
  exact ⟨t₁, t₂, _, hrun₁, hrun₂, hret₁, hret₂, rfl⟩

/-- Settles O57: the reply is the same list, for COMPUTE and for ISVALID. -/
theorem repliesDependOnTheSequenceOnly : Obligations.RepliesDependOnTheSequenceOnly := by
  rintro s₁ s₂ ds rest₁ rest₂ hc (⟨hp₁, hp₂⟩ | ⟨hp₁, hp₂⟩)
  · rw [computeActions_eq] at hp₁ hp₂
    exact exists_runs_opActions_same_reply .gen hc hp₁ hp₂
  · rw [isvalidActions_eq] at hp₁ hp₂
    exact exists_runs_opActions_same_reply .val hc hp₁ hp₂

/-! ### The reply, outcome by outcome (R140, R141) -/

/-- Where the operand is a non-empty sequence of Digits, the operand check answers it. -/
theorem State.sequence_of_digits {s : State} {es : List Digit} (ho : s.status.ovf = false) (hne : es ≠ [])
    (hb : s.buf = es.map nibbleOfDigit) : s.sequence = .ok es := by
  have hd := (digitsOf?_eq_some_iff s.buf es).2 hb
  have hl : s.len ≠ 0 := by simp [State.len, hb, hne]
  simp [State.sequence, ho, hl, hd]

/-- The error `e` of `op` as the host reads it, after a CLR: its code in `ERR`, and no result (R166). -/
def State.Reports (t : State) (op : Op) (e : ErrorCond) (ovf : Bool) : Prop :=
  statusByte t.status = statusByte { done := true, op := op, err := some e, ovf := ovf, ill := false } ∧
  resultByte t.result = 0x0F#8

section Outcomes
variable (op : Op) {s : State} {ds : List Nibble}

/-- A sequence that fits stands in the buffer as it was written, and no nibble was dropped. -/
theorem State.loaded_clearEngine_of_fits (h : ds.length ≤ s.cfg.nmax.val) :
    s.clearEngine.loaded ds = { s.clearEngine with buf := ds } :=
  State.loaded_of_fits (by simpa using h)

theorem State.computed_reports {e : ErrorCond} {ovf : Bool} (ho : (s.clearEngine.loaded ds).status.ovf = ovf)
    (he : (s.clearEngine.loaded ds).sequence = .error e) : (s.computed op ds).Reports op e ovf := by
  rw [State.computed, State.finish_of_error op he, ← ho]
  exact ⟨rfl, resultByte_noResult⟩

theorem State.computed_reports_overflow (h : s.cfg.nmax.val < ds.length) :
    (s.computed op ds).Reports op .overflow true := by
  have ho : (s.clearEngine.loaded ds).status.ovf = true := State.loaded_ovf_of_not_fits (by simpa using h)
  exact State.computed_reports op ho (State.sequence_of_ovf ho)

theorem State.computed_reports_emptyInput (h : ds = []) : (s.computed op ds).Reports op .emptyInput false := by
  subst h
  have hload := State.loaded_clearEngine_of_fits (s := s) (ds := []) (Nat.zero_le _)
  refine State.computed_reports op (congrArg (·.status.ovf) hload) ?_
  rw [hload]
  exact State.sequence_of_len_eq_zero rfl rfl

theorem State.computed_reports_invalidDigit (h : ds.length ≤ s.cfg.nmax.val) (hbad : ∃ v ∈ ds, 9 < v.toNat) :
    (s.computed op ds).Reports op .invalidDigit false := by
  have hload := State.loaded_clearEngine_of_fits h
  refine State.computed_reports op (congrArg (·.status.ovf) hload) ?_
  rw [hload]
  exact State.sequence_of_holdsBadNibble_of_not_ovf rfl (State.holdsBadNibble_iff.2 hbad)

/-- The engine after `op` on a sequence of Digits that fits. -/
theorem State.computed_of_digits {es : List Digit} (h : ds.length ≤ s.cfg.nmax.val) (hne : es ≠ [])
    (hds : ds = es.map nibbleOfDigit) :
    s.computed op ds = { s.clearEngine with buf := ds }.complete op (op.resultOf es) := by
  rw [State.computed, State.loaded_clearEngine_of_fits h]
  exact State.finish_of_ok op (State.sequence_of_digits rfl hne hds)

theorem State.bytes_computed_of_digits {es : List Digit} (h : ds.length ≤ s.cfg.nmax.val) (hne : es ≠ [])
    (hds : ds = es.map nibbleOfDigit) :
    statusByte (s.computed op ds).status =
      statusByte { done := true, op := op, err := none, ovf := false, ill := false } ∧
    resultByte (s.computed op ds).result = resultByte (op.resultOf es) := by
  rw [State.computed_of_digits op h hne hds]
  exact ⟨rfl, rfl⟩

end Outcomes

/-- The outcome table of `COMPUTE`: each error's bytes are those of the table, and the result is the check digit. -/
theorem computeReply (s : State) (ds : List Nibble) :
    ComputeReply s.cfg ds (statusByte (s.computed .gen ds).status) (resultByte (s.computed .gen ds).result) := by
  refine ⟨State.computed_reports_overflow .gen, State.computed_reports_emptyInput .gen,
    State.computed_reports_invalidDigit .gen, fun h es hne hds => ?digits⟩
  case digits =>
    obtain ⟨hst, hres⟩ := State.bytes_computed_of_digits .gen h hne hds
    exact ⟨hst, hres.trans (resultByte_of_digit _)⟩

/-- The outcome table of `ISVALID`, whose result is the verdict. -/
theorem isvalidReply (s : State) (ds : List Nibble) :
    IsvalidReply s.cfg ds (statusByte (s.computed .val ds).status) (resultByte (s.computed .val ds).result) := by
  refine ⟨State.computed_reports_overflow .val, State.computed_reports_emptyInput .val,
    State.computed_reports_invalidDigit .val, fun h es hne hds => ?digits⟩
  case digits =>
    obtain ⟨hst, hres⟩ := State.bytes_computed_of_digits .val h hne hds
    exact ⟨hst, hres.trans (resultByte_valResult es)⟩

/-- Settles O54: the run of COMPUTE from the cleared engine, which the reset state is already, and its table. -/
theorem computeReturnsTheStatedBytes : Obligations.ComputeReturnsTheStatedBytes := by
  refine ⟨fun s ds rest hp => ?withClr, fun s ds rest hp hs => ?withoutClr⟩
  case withClr =>
    rw [computeActions_eq] at hp
    obtain ⟨t, hrun, hpending, hreturned⟩ := exists_run_opActions .gen hp
    exact ⟨t, _, _, hrun, hpending, hreturned, computeReply s ds⟩
  case withoutClr =>
    rw [computeActions_eq] at hp
    have hclear : s.clearEngine = s := s.clearEngine_eq_resetFor.trans hs.symm
    obtain ⟨t, hrun, hpending, hreturned⟩ := exists_run_opActions_tail .gen hclear hp
    exact ⟨t, _, _, hrun, hpending, hreturned, computeReply s ds⟩

/-- Settles O55: the run of ISVALID from the cleared engine, and its table. -/
theorem isvalidReturnsTheStatedBytes : Obligations.IsvalidReturnsTheStatedBytes := by
  intro s ds rest hp
  rw [isvalidActions_eq] at hp
  obtain ⟨t, hrun, hpending, hreturned⟩ := exists_run_opActions .val hp
  exact ⟨t, _, _, hrun, hpending, hreturned, isvalidReply s ds⟩

/-! ### Generate, then verify (R142) -/

/-- `COMPUTE` of Digits that fit: it leaves them in the buffer and returns their check digit. -/
theorem runs_compute_of_digits {s : State} {ds : List Digit} (hl : ds.length ≤ s.cfg.nmax.val) (hne : ds ≠ []) :
    Runs (opActions .gen (ds.map nibbleOfDigit)) s
      (({ s.clearEngine with buf := ds.map nibbleOfDigit }.complete .gen (genResult ds)).answering
        [0x01#8, BitVec.ofNat 8 (genDigit ds).val]) := by
  have hfits : (ds.map nibbleOfDigit).length ≤ s.cfg.nmax.val := by rwa [List.length_map]
  have hrun := runs_opActions .gen (ds.map nibbleOfDigit) s
  obtain ⟨hst, hres⟩ := State.bytes_computed_of_digits .gen hfits hne rfl
  have hdigit : resultByte (Op.gen.resultOf ds) = BitVec.ofNat 8 (genDigit ds).val := resultByte_of_digit _
  rw [State.reply, hst, hres, hdigit, State.computed_of_digits .gen hfits hne rfl] at hrun
  exact hrun

/-- A PUSH that makes the Digits in the buffer a valid sequence, and the VAL after it. -/
theorem runs_push_val_of_valid {s : State} {ds : List Digit} {k : Digit} (hv : isValidSeq (ds ++ [k]) = true)
    (hl : s.len ≠ s.cfg.nmax.val) (hb : s.buf = ds.map nibbleOfDigit) (ho : s.status.ovf = false)
    (hi : s.status.ill = false) :
    Runs (commandAction (.push (nibbleOfDigit k)) :: opReads .val) s
      (((s.appendCell (nibbleOfDigit k)).complete .val (valResult (ds ++ [k]))).answering [0x03#8, 0x1F#8]) := by
  have hseq : (s.appendCell (nibbleOfDigit k)).sequence = .ok (ds ++ [k]) :=
    State.sequence_of_digits ho (by simp) (by simp [Memory.append, hb])
  have hval := runs_opReads .val (s.appendCell (nibbleOfDigit k))
  have hst : statusByte { s.status with done := true, op := .val, err := none } = 0x03#8 := by
    simp only [ho, hi]
    rfl
  rw [State.finish_of_ok .val hseq, State.reply, State.complete_status, State.appendCell_status, hst,
    State.complete_result, Op.resultOf_val, resultByte_valResult, if_pos hv] at hval
  exact (Runs.command ((exec_push _ s).trans (execPush_of_not_full _ hl))).cons hval

/-- Settles O56: COMPUTE leaves the payload in the buffer, the digit it gives goes behind it, and the whole is valid. -/
theorem generateThenVerifySucceeds : Obligations.GenerateThenVerifySucceeds := by
  intro s ds rest hne hl hp
  have hfree : (ds.map nibbleOfDigit).length ≠ s.cfg.nmax.val := by
    rw [List.length_map]
    omega
  rw [computeActions_eq] at hp
  have hrun := (runs_compute_of_digits (by omega) hne).append
    (runs_push_val_of_valid (isValidSeq_snoc_genDigit ds) hfree rfl rfl rfl)
  have hlen : (opActions .gen (ds.map nibbleOfDigit) ++
      commandAction (.push (nibbleOfDigit (genDigit ds))) :: opReads .val).length = ds.length + 8 := by
    simp [opReads]
  refine ⟨_, hlen ▸ hrun.runSteps hp, rfl, ?returned, ?buf⟩
  case returned => simp
  case buf => simp [Memory.append]

end Sys2Proof.Machine
end

section
/-! The rules of spec/60_exceptions.md: the three errors that GEN and VAL report, the order among them, error entry, and
recovery. GEN and VAL are taken together, as `Op.instr`: what a command reports is what the operand check answers. -/
namespace Sys2Proof.Machine

/-! ### The three errors (R161 to R163) -/

/-- Both commands report the one error that the operand check answers, and enter it alike (R166). -/
theorem exec_gen_and_val_of_error {s : State} {e : ErrorCond} (hs : s.sequence = .error e) :
    exec .gen s = .next (s.raise e .gen) ∧ exec .val s = .next (s.raise e .val) :=
  ⟨exec_op_of_error .gen hs, exec_op_of_error .val hs⟩

/-- Settles O26: the operand check on no live cell; the reset state, and CLR's, has none and `OVF` is 0 there. -/
theorem emptyBufferRaisesEmptyInput : Obligations.EmptyBufferRaisesEmptyInput := by
  refine ⟨fun s ho hl => ?raised, rfl, fun c => ⟨rfl, rfl⟩, fun s t h => ?cleared, fold_nil 0⟩
  case raised => exact exec_gen_and_val_of_error (State.sequence_of_len_eq_zero ho hl)
  case cleared =>
    cases h
    exact ⟨rfl, s.clearEngine_len⟩

/-- Settles O27: the operand check on a bad nibble, which every run without CLR or Reset keeps. -/
theorem badNibbleRaisesInvalidDigit : Obligations.BadNibbleRaisesInvalidDigit :=
  ⟨fun _ ho hb => exec_gen_and_val_of_error (State.sequence_of_holdsBadNibble_of_not_ovf ho hb), rfl,
    fun _ _ _ => runSteps_keeps_holdsBadNibble⟩

/-- Settles O28: the operand check looks at `OVF` first; a dropped PUSH sets it, and every run without CLR or Reset
keeps it. -/
theorem droppedDigitRaisesOverflow : Obligations.DroppedDigitRaisesOverflow := by
  refine ⟨fun s ho => exec_gen_and_val_of_error (State.sequence_of_ovf ho), rfl, fun v s t hl h => ?dropped,
    fun _ _ _ => runSteps_keeps_ovf⟩
  case dropped =>
    obtain rfl := eq_markOverflow_of_exec_push hl h
    rfl

/-! ### One error, by priority (R165) -/

/-- A GEN or VAL that has its operand writes `ERR` to 0, whatever stood there (R168). -/
theorem err_of_exec_op_of_ok (op : Op) {s t : State} {ds : List Digit} (hs : s.sequence = .ok ds)
    (h : exec op.instr s = .next t) : t.status.err = none := by
  rw [exec_op_of_ok op hs] at h
  cases h
  rfl

theorem not_holdsBadNibble_of_len_eq_zero {s : State} (hl : s.len = 0) : ¬ s.holdsBadNibble := by
  intro hb
  obtain ⟨v, hv, -⟩ := State.holdsBadNibble_iff.1 hb
  rw [List.length_eq_zero_iff.1 hl] at hv
  exact absurd hv List.not_mem_nil

/-- A buffer that dropped a digit is full, and every capacity is at least 1 (R7, R34). -/
theorem len_ne_zero_of_inv_of_ovf {s : State} (hi : s.Inv) (ho : s.status.ovf = true) : s.len ≠ 0 := by
  obtain ⟨-, hfull, -⟩ := hi
  have hl := hfull ho
  have hcap := s.cfg.nmax.property.left
  omega

/-- Settles O29: `ERR` is what the operand check answers, in each of the four cases. -/
theorem errorsAreReportedByPriority : Obligations.ErrorsAreReportedByPriority := by
  refine ⟨fun i s t hi h => ?reported, fun _ => not_holdsBadNibble_of_len_eq_zero,
    fun _ => len_ne_zero_of_inv_of_ovf⟩
  obtain ⟨op, rfl⟩ := exists_op_of_gen_or_val hi
  refine ⟨fun ho => ?overflow, fun ho hl => ?empty, fun ho _ hb => ?invalid, fun ho hl hb => ?success⟩
  case overflow => exact err_of_exec_op_of_error op (State.sequence_of_ovf ho) h
  case empty => exact err_of_exec_op_of_error op (State.sequence_of_len_eq_zero ho hl) h
  case invalid => exact err_of_exec_op_of_error op (State.sequence_of_holdsBadNibble_of_not_ovf ho hb) h
  case success =>
    obtain ⟨ds, -, hs⟩ := State.exists_sequence_ok ho hl hb
    exact err_of_exec_op_of_ok op hs h

/-! ### Error entry (R166) -/

/-- Read backwards: a reported error is the operand check's, and the state is error entry's. -/
theorem raised_of_exec_op_of_err (op : Op) {s t : State} {e : ErrorCond} (h : exec op.instr s = .next t)
    (he : t.status.err = some e) : s.sequence = .error e ∧ t = s.raise e op := by
  rcases exec_op_cases op h with ⟨e', hs, rfl⟩ | ⟨ds, -, rfl⟩
  · obtain rfl : e' = e := by simpa using he
    exact ⟨hs, rfl⟩
  · simp at he

/-- Settles O30: a GEN or VAL that reports an error has done error entry and nothing else. -/
theorem errorEntryWritesStatusAndResultOnly : Obligations.ErrorEntryWritesStatusAndResultOnly :=
  fun _ _ _ he => ⟨fun h => (raised_of_exec_op_of_err .gen h he).right,
    fun h => (raised_of_exec_op_of_err .val h he).right⟩

/-! ### Recovery (R168) -/

theorem State.empty_of_sequence_emptyInput {s : State} (h : s.sequence = .error .emptyInput) :
    s.status.ovf = false ∧ s.buf = [] := by
  rcases s.sequence_cases with ⟨-, hs⟩ | ⟨ho, hnil, -⟩ | ⟨-, -, -, hs⟩ | ⟨ds, -, -, -, hs⟩
  case inr.inl => exact ⟨ho, hnil⟩
  all_goals simp [hs] at h

/-- From the empty buffer a PUSH of one Digit recovers: there is always a cell for it (R7), and it is the operand. -/
theorem exists_push_op_err_none (op : Op) (d : Digit) {s : State} (ho : s.status.ovf = false) (hnil : s.buf = []) :
    ∃ u w, exec (.push (nibbleOfDigit d)) s = .next u ∧ exec op.instr u = .next w ∧ w.status.err = none := by
  have hfree : s.len ≠ s.cfg.nmax.val := by
    have hcap := s.cfg.nmax.property.left
    rw [State.len, hnil, List.length_nil]
    omega
  have hseq : (s.appendCell (nibbleOfDigit d)).sequence = .ok [d] :=
    State.sequence_of_digits ho (by simp) (by simp [Memory.append, hnil])
  exact ⟨_, _, execPush_of_not_full _ hfree, exec_op_of_ok op hseq, rfl⟩

/-- The same after a failure with `EmptyInput`: error entry leaves the buffer and `OVF` as they are. -/
theorem exists_push_op_err_none_of_emptyInput (op : Op) (d : Digit) {s t : State} (h : exec op.instr s = .next t)
    (he : t.status.err = some .emptyInput) :
    ∃ u w, exec (.push (nibbleOfDigit d)) t = .next u ∧ exec op.instr u = .next w ∧ w.status.err = none := by
  obtain ⟨hs, rfl⟩ := raised_of_exec_op_of_err op h he
  obtain ⟨ho, hnil⟩ := State.empty_of_sequence_emptyInput hs
  exact exists_push_op_err_none op d ho hnil

/-- A command executed is a step of the engine to which it is presented, so the rules of the step are the command's. -/
theorem step_presentFirst_commandAction (i : Instr) (s : State) :
    step (presentFirst (commandAction i) s) = exec i s := by
  rw [step_of_pending _ _ _ (presentFirst_pending s _)]
  exact executeWord_of_instr (decode_encode i) s

theorem not_nextClears_presentFirst_commandAction {i : Instr} (hi : i ≠ .clr) (s : State) :
    ¬ (presentFirst (commandAction i) s).nextClears := by
  have hc : (presentFirst (commandAction i) s).nextCommand? = some (decode (encode i)) :=
    State.nextCommand?_of_write_cmd (presentFirst_pending s _)
  rw [State.nextClears_iff_of_nextCommand hc, decode_encode]
  simpa using hi

/-- No command but CLR removes or rewrites a live cell. -/
theorem buf_isPrefix_of_exec {i : Instr} {s t : State} (hi : i ≠ .clr) (h : exec i s = .next t) : s.buf <+: t.buf := by
  rw [← step_presentFirst_commandAction] at h
  exact buf_isPrefix_of_step (s := presentFirst (commandAction i) s) (not_nextClears_presentFirst_commandAction hi s) h

/-- `ILL` once set stays set: a further reserved word, too, sets it (R27). -/
theorem step_keeps_ill {s t : State} (hi : s.status.ill = true) (hn : ¬ s.nextClears) (h : step s = .next t) :
    t.status.ill = true := by
  obtain ⟨-, hreserved, hkept⟩ := step_ill h
  by_cases hw : ∃ w, s.nextCommand? = some (.illegal w)
  · obtain ⟨w, hc⟩ := hw
    exact hreserved w hc
  · rw [hkept hn fun w hc => hw ⟨w, hc⟩]
    exact hi

/-- Settles O58: an operand, once there, is what GEN and VAL complete on, and a failure leaves the operand as it was;
the sticky flags by the step rules. -/
theorem recoveryFollowsItsRule : Obligations.RecoveryFollowsItsRule := by
  refine ⟨fun i s hi ho hl hb => ?operand, fun i s t d hi h he => ?emptyInput, fun i s t d hi h => ?cleared,
    fun i s t hi h _ => ?repeated, fun i s t hi h => (buf_isPrefix_of_exec hi h).length_le,
    fun s t h hn => ⟨fun ho => step_keeps_ovf ho hn h, fun hi => step_keeps_ill hi hn h⟩,
    fun s t h hn => ⟨(step_ovf h).left hn, (step_ill h).left hn⟩⟩
  all_goals obtain ⟨op, rfl⟩ := exists_op_of_gen_or_val hi
  case operand =>
    obtain ⟨ds, -, hs⟩ := State.exists_sequence_ok ho hl hb
    exact ⟨_, exec_op_of_ok op hs, rfl⟩
  case emptyInput => exact exists_push_op_err_none_of_emptyInput op d h he
  case cleared =>
    obtain rfl : t = s.clearEngine := by
      rcases h with h | h
      · cases h
        rfl
      · exact h
    exact exists_push_op_err_none op d rfl s.clearEngine_buf
  case repeated => exact exec_op_idempotent op h

end Sys2Proof.Machine
end

section
/-! The rules of spec/70_reset_and_hazards.md: every run goes through and takes the host's actions in order, Reset
gives the reset state, and a PUSH leaves the result of the last GEN or VAL standing. -/
namespace Sys2Proof.Machine

/-! ### Runs go through (R192) -/

/-- Whatever a step does, it takes the one action presented and leaves the others pending (R57, R61). -/
theorem pending_of_step {s t : State} (h : step s = .next t) : t.pending = s.pending.tail := by
  cases step_cases h with
  | dropped v hc hn hl ht => exact ht ▸ s.actionTaken.markOverflow_pending
  | pushed v hc hn hl ht => exact ht ▸ s.actionTaken.appendCell_pending v
  | raised op e hc hn hs ht => exact ht ▸ s.actionTaken.raise_pending e op
  | completed op ds hc hn hs ht => exact ht ▸ s.actionTaken.complete_pending op _
  | cleared hn ht => exact ht ▸ s.actionTaken.clearEngine_pending
  | reserved w hc hn ht => exact ht ▸ s.actionTaken.markIllegal_pending
  | inert bytes hc hn ht => exact ht ▸ s.actionTaken_pending

/-- Settles O15, by induction on the number of steps: each of them goes through and takes one action. -/
theorem everyRunReachesAState : Obligations.EveryRunReachesAState := by
  intro s k
  induction k generalizing s with
  | zero => exact ⟨s, runSteps_zero s, List.drop_zero.symm⟩
  | succ k ih =>
    obtain ⟨t, hstep, -⟩ := exists_step_stepCase s
    obtain ⟨u, hrun, hpending⟩ := ih t
    refine ⟨u, (runSteps_succ_of_step k s t hstep).trans hrun, ?_⟩
    calc u.pending
      _ = t.pending.drop k := hpending
      _ = s.pending.tail.drop k := by rw [pending_of_step hstep]
      _ = s.pending.drop (k + 1) := List.drop_tail

/-! ### Reset (R180) -/

/-- Settles O11: the transaction of Reset clears the engine, whatever its state. -/
theorem resetActionGivesTheResetState : Obligations.ResetActionGivesTheResetState := by
  intro s rest hp
  rw [step_of_pending s _ rest hp, transact, hostReset, State.clearEngine_eq_resetFor]

/-! ### The stale result (R186) -/

/-- Of `RESULT` and `STATUS` a PUSH can write only `OVF`. -/
theorem result_fields_of_exec_push {v : Nibble} {s t : State} (h : exec (.push v) s = .next t) :
    t.result = s.result ∧ t.status.done = s.status.done ∧ t.status.op = s.status.op ∧
    t.status.err = s.status.err := by
  by_cases hl : s.len = s.cfg.nmax.val
  · obtain rfl := eq_markOverflow_of_exec_push hl h
    exact ⟨rfl, rfl, rfl, rfl⟩
  · obtain rfl := eq_appendCell_of_exec_push hl h
    exact ⟨rfl, rfl, rfl, rfl⟩

theorem State.appendCell_buf_ne (s : State) (v : Nibble) : (s.appendCell v).buf ≠ s.buf := by
  simp [Memory.append]

/-- Settles O36: PUSH by what it can write, CLR by the reset values it leaves. -/
theorem pushLeavesAStaleResult : Obligations.PushLeavesAStaleResult := by
  refine ⟨fun v s t h => ?push, fun s t h => ?clr⟩
  case push =>
    obtain ⟨hresult, hdone, hop, herr⟩ := result_fields_of_exec_push h
    refine ⟨hresult, hdone, hop, herr, fun hl => ?_⟩
    rw [eq_appendCell_of_exec_push hl h]
    exact s.appendCell_buf_ne v
  case clr =>
    cases h
    exact ⟨resultByte_noResult, Status.reset_done, Status.reset_op, Status.reset_err⟩

end Sys2Proof.Machine
end

section
/-! The rules that the sections above leave: the invariants over one step and at reset (spec/10_state.md), one host
action per step (spec/00_scope.md, spec/20_memory.md), the frames of the four commands (spec/41_buffer_commands.md to
spec/43_validate.md), all or nothing (spec/60_exceptions.md), and the loop's two counters (spec/40_tables.md). -/
namespace Sys2Proof.Machine

/-! ### The invariants (R34) -/

/-- Settles O38: each way a step can go keeps the invariants. -/
theorem stepKeepsTheInvariants : Obligations.StepKeepsTheInvariants :=
  fun _ _ => step_keeps_inv

/-- Settles O39: with every register at its reset value each invariant holds at once. -/
theorem resetMeetsTheInvariants : Obligations.ResetMeetsTheInvariants :=
  freshRun_inv

/-! ### One host action per step (R11, R57, R61) -/

/-- No step changes the capacity (R7). -/
theorem cfg_of_step {s t : State} (h : step s = .next t) : t.cfg = s.cfg := by
  cases step_cases h with
  | dropped v hc hn hl ht => exact ht ▸ s.actionTaken.markOverflow_cfg
  | pushed v hc hn hl ht => exact ht ▸ s.actionTaken.appendCell_cfg v
  | raised op e hc hn hs ht => exact ht ▸ s.actionTaken.raise_cfg e op
  | completed op ds hc hn hs ht => exact ht ▸ s.actionTaken.complete_cfg op _
  | cleared hn ht => exact ht ▸ s.actionTaken.clearEngine_cfg
  | reserved w hc hn ht => exact ht ▸ s.actionTaken.markIllegal_cfg
  | inert bytes hc hn ht => exact ht ▸ s.actionTaken_cfg

/-- What the host reads over a step is the byte of the action presented, if that action has one. -/
theorem returned_of_step {s t : State} {act : HostAction} {rest : List HostAction} (hp : s.pending = act :: rest)
    (h : step s = .next t) : t.returned = s.returned ++ (respond act s).toList := by
  cases act with
  | write a b =>
    rw [returned_of_step_of_write hp h]
    exact (List.append_nil _).symm
  | read a =>
    rw [step_of_read hp] at h
    cases h
    rfl
  | reset =>
    rw [resetActionGivesTheResetState s rest hp] at h
    cases h
    exact (List.append_nil _).symm

/-- Settles O14: every step goes through, and takes the action, its byte and nothing of the capacity. -/
theorem eachActionCompletesInOneStep : Obligations.EachActionCompletesInOneStep := by
  intro s act rest hp
  obtain ⟨t, hstep, -⟩ := exists_step_stepCase s
  have htaken : t.pending = rest := by rw [pending_of_step hstep, hp, List.tail_cons]
  exact ⟨t, hstep, htaken, returned_of_step hp hstep, cfg_of_step hstep⟩

/-- Settles O7: the port executes the word written to `CMD`, and execution is by what the word decodes to. -/
theorem stepRunsTheDecodedCommand : Obligations.StepRunsTheDecodedCommand := by
  intro s w i rest hp hd _
  rw [step_of_write_cmd hp, executeWord_of_instr hd]

/-- Settles O13: with nothing pending there is no action to take. -/
theorem idleEngineStaysAsItIs : Obligations.IdleEngineStaysAsItIs :=
  step_of_nil

/-- Settles O4: each listed word is the encoding of its command, or is none of the 19 command numbers. -/
theorem listedWordsDecodeAsListed : Obligations.ListedWordsDecodeAsListed := by
  refine ⟨?push0, ?push9, ?push15, ?gen, ?val, ?clr, ?zero, ?genWithOperand, ?allOnes⟩
  case push0 => exact decode_encode (.push 0#4)
  case push9 => exact decode_encode (.push 9#4)
  case push15 => exact decode_encode (.push 15#4)
  case gen => exact decode_encode .gen
  case val => exact decode_encode .val
  case clr => exact decode_encode .clr
  case zero => exact decode_eq_illegal_iff_not_isCommandNumber.2 (by decide)
  case genWithOperand => exact decode_eq_illegal_iff_not_isCommandNumber.2 (by decide)
  case allOnes => exact decode_eq_illegal_iff_not_isCommandNumber.2 (by decide)

/-! ### `DONE`, `OP`, `ERR` and `RESULT` over a step -/

theorem Op.instr_injective : Function.Injective Op.instr := by
  intro op op' h
  cases op <;> cases op' <;> simp at h ⊢

/-- The fields of `STATUS` that describe the last GEN or VAL, after a step, with GEN and VAL taken together. -/
theorem step_outcome {s t : State} (h : step s = .next t) :
    (s.nextClears → t.status = Status.reset) ∧
    (∀ op : Op, s.nextCommand? = some (.instr op.instr) → t.status.done = true ∧ t.status.op = op) ∧
    (¬ s.nextClears → (∀ op : Op, s.nextCommand? ≠ some (.instr op.instr)) →
      t.status.done = s.status.done ∧ t.status.op = s.status.op ∧ t.status.err = s.status.err) := by
  cases step_cases h with
  | dropped v hc hn hl ht => simp [hc, hn, ht, (Op.instr_ne_push _ v).symm]
  | pushed v hc hn hl ht => simp [hc, hn, ht, (Op.instr_ne_push _ v).symm]
  | raised op e hc hn hs ht => simp [hc, hn, ht, Op.instr_injective.eq_iff]
  | completed op ds hc hn hs ht => simp [hc, hn, ht, Op.instr_injective.eq_iff]
  | cleared hn ht => simp [hn, ht, State.nextCommand?_ne_of_nextClears hn, Op.instr_ne_clr]
  | reserved w hc hn ht => simp [hc, hn, ht]
  | inert bytes hc hn ht => simp [hc, hn, ht]

/-- Settles O35: the step rule of the three fields of `STATUS`, and that of `RESULT`. -/
theorem resultFieldsChangeOnlyAsStated : Obligations.ResultFieldsChangeOnlyAsStated := by
  intro s t h
  obtain ⟨hreset, hwritten, hkept⟩ := step_outcome h
  obtain ⟨-, -, hnoResult, hsameResult⟩ := step_result h
  refine ⟨fun hn => ?cleared, hwritten .gen, hwritten .val, fun hn hgen hval => ?other⟩
  case cleared =>
    rw [hreset hn, hnoResult hn]
    exact ⟨Status.reset_done, Status.reset_op, Status.reset_err, resultByte_noResult⟩
  case other =>
    have hop (op : Op) : s.nextCommand? ≠ some (.instr op.instr) := by
      cases op with
      | gen => exact hgen
      | val => exact hval
    obtain ⟨hdone, hopKept, herr⟩ := hkept hn hop
    exact ⟨hdone, hopKept, herr, hsameResult hop hn⟩

/-! ### PUSH (R112) -/

/-- Settles O17, by the two ways a PUSH can go. -/
theorem pushFrame : Obligations.PushFrame := by
  intro v s t h
  by_cases hl : s.len = s.cfg.nmax.val
  · obtain rfl := eq_markOverflow_of_exec_push hl h
    have not_free : s.full ≠ false := by simp [s.full_iff.2 hl]
    exact ⟨rfl, rfl, rfl, rfl, rfl, rfl, rfl, rfl, fun hfree => absurd hfree not_free, fun _ => ⟨rfl, fun _ => rfl⟩⟩
  · obtain rfl := eq_appendCell_of_exec_push hl h
    refine ⟨rfl, rfl, rfl, rfl, rfl, rfl, rfl, rfl, fun _ => ⟨rfl, ?stored, fun k hk => ?others⟩,
      fun hfull => absurd (s.full_iff.1 hfull) hl⟩
    case stored => exact s.buf.read?_append_self v
    case others => exact s.buf.read?_append_of_ne v k hk

@[simp] theorem pushesActions_length (ds : List Nibble) : (pushesActions ds).length = ds.length :=
  List.length_map _

/-- The cells of a sequence appended to the buffer, counted from the first free one. -/
theorem Memory.read?_append_list (m : Memory) (ds : List Nibble) (k : Nat) :
    Memory.read? (m ++ ds) (m.length + k) = ds[k]? := by
  rw [Memory.read?, List.getElem?_append_right (Nat.le_add_right _ _), Nat.add_sub_cancel_left]

/-- Settles O20: PUSHes in sequence load their nibbles, and those that fit are all there. -/
theorem pushesAppendInOrder : Obligations.PushesAppendInOrder := by
  intro s ds rest hp hfits
  have hrun := (runs_pushes ds (by omega)).runSteps hp
  rw [pushesActions_length, State.loaded_of_fits hfits] at hrun
  exact ⟨_, hrun, rfl, fun k _ => s.buf.read?_append_list ds k⟩

/-! ### CLR (R111) -/

/-- `DONE` once set stays set: GEN and VAL set it too, and nothing else but CLR and Reset writes it (R23). -/
theorem step_keeps_done {s t : State} (hd : s.status.done = true) (hn : ¬ s.nextClears) (h : step s = .next t) :
    t.status.done = true := by
  obtain ⟨-, hwritten, hkept⟩ := step_outcome h
  by_cases hop : ∃ op : Op, s.nextCommand? = some (.instr op.instr)
  · obtain ⟨op, hc⟩ := hop
    obtain ⟨hdone, -⟩ := hwritten op hc
    exact hdone
  · obtain ⟨hdone, -⟩ := hkept hn (not_exists.1 hop)
    rw [hdone]
    exact hd

/-- A command other than CLR keeps the three flags that CLR clears: it is a step that does not clear the engine. -/
theorem exec_keeps_flags {i : Instr} {s t : State} (hi : i ≠ .clr) (h : exec i s = .next t) :
    (s.status.ovf = true → t.status.ovf = true) ∧ (s.status.ill = true → t.status.ill = true) ∧
    (s.status.done = true → t.status.done = true) := by
  have hn := not_nextClears_presentFirst_commandAction hi s
  rw [← step_presentFirst_commandAction] at h
  exact ⟨fun ho => step_keeps_ovf (s := presentFirst (commandAction i) s) ho hn h,
    fun hill => step_keeps_ill (s := presentFirst (commandAction i) s) hill hn h,
    fun hd => step_keeps_done (s := presentFirst (commandAction i) s) hd hn h⟩

/-- Settles O18: CLR clears the engine and is idempotent; any other command keeps the flags and the live cells. -/
theorem clrRestoresTheResetState : Obligations.ClrRestoresTheResetState := by
  refine ⟨fun s => ?fromAnyState, fun c => exec_clr _, fun i s t hi h => ?otherCommand⟩
  case fromAnyState =>
    exact ⟨s.clearEngine, exec_clr s, s.clearEngine_eq_resetFor, s.clearEngine_len, statusByte_reset,
      resultByte_noResult, exec_clr_idempotent (exec_clr s)⟩
  case otherCommand =>
    obtain ⟨hovf, hill, hdone⟩ := exec_keeps_flags hi h
    exact ⟨hovf, hill, hdone, (buf_isPrefix_of_exec hi h).length_le⟩

/-- Settles O19: what CLR clears is neither the capacity nor the port, and it leaves the empty digit space. -/
theorem clrFrame : Obligations.ClrFrame := by
  intro s t h
  cases h
  exact ⟨s.clearEngine_cfg, s.clearEngine_pending, s.clearEngine_returned, Memory.read?_empty⟩

/-! ### GEN and VAL: frame, and all or nothing (R122, R132, R167) -/

/-- Settles O23: none of these is among the fields that GEN and VAL write. -/
theorem genAndValFrame : Obligations.GenAndValFrame := by
  intro i s t hi h
  obtain ⟨op, rfl⟩ := exists_op_of_gen_or_val hi
  rw [exec_op_writes_only op h]
  exact ⟨rfl, rfl, rfl, rfl, fun _ => rfl, rfl, rfl⟩

/-- Code 0 is the code of no error, and of nothing else (R25). -/
theorem errCode_eq_zero_iff (e : Option ErrorCond) : errCode e = 0#2 ↔ e = none := by
  rcases e with _ | _ | _ | _ <;> decide

/-- A GEN or VAL that reports an error leaves no result, one that reports none the result of its whole operand. -/
theorem exec_op_all_or_nothing (op : Op) {s t : State} (h : exec op.instr s = .next t) :
    (errCode t.status.err ≠ 0#2 → resultByte t.result = 0x0F#8) ∧
    (errCode t.status.err = 0#2 → ∃ ds : List Digit, ds ≠ [] ∧ s.buf = ds.map nibbleOfDigit ∧
      t.result = op.resultOf ds) := by
  rcases exec_op_cases op h with ⟨e, -, rfl⟩ | ⟨ds, hs, rfl⟩
  · exact ⟨fun _ => resultByte_noResult, fun hcode => nomatch (errCode_eq_zero_iff _).1 hcode⟩
  · obtain ⟨hne, hbuf⟩ := State.buf_of_sequence_ok hs
    exact ⟨fun hcode => absurd rfl hcode, fun _ => ⟨ds, hne, hbuf, rfl⟩⟩

/-- Settles O31: GEN's result is `INV` of the fold with offset 1, VAL's is whether the fold with offset 0 is 0. -/
theorem errorsLeaveNoPartialResult : Obligations.ErrorsLeaveNoPartialResult :=
  fun _ _ => ⟨exec_op_all_or_nothing .gen, exec_op_all_or_nothing .val⟩

/-! ### The loop's two counters (R103, R123, R133) -/

/-- Settles O47: each pass adds 1 to `IDX`. -/
theorem loopRunsOncePerDigit : Obligations.LoopRunsOncePerDigit :=
  fun ds o => workLoop_idx o ds

/-- One pass of the loop with a 3-bit row counter in place of `IDX` (R103 item 2). -/
def counterStep (w : Digit × BitVec 3) (v : Digit) : Digit × BitVec 3 := (fstep w.1 w.2.toFin v, w.2 + 1#3)

theorem counterFold_eq_foldl_counterStep (ds : List Digit) (o : Nat) :
    counterFold ds o = (ds.reverse.foldl counterStep (0, BitVec.ofNat 3 o)).1 := rfl

/-- The working registers as the 3-bit counter sees them: `ACC`, and the low three bits of `IDX + o`. -/
def Work.counted (o : Nat) (w : Work) : Digit × BitVec 3 := (w.acc, BitVec.ofNat 3 (w.idx + o))

theorem workStart_counted (o : Nat) : workStart.counted o = (0, BitVec.ofNat 3 o) := by
  rw [Work.counted, workStart, Nat.zero_add]

theorem ofNat_toFin_eq_rowAt (i o : Nat) : (BitVec.ofNat 3 (i + o)).toFin = rowAt i o := rfl

/-- A pass with the 3-bit counter does what a pass with `IDX` does. -/
theorem counterStep_counted (o : Nat) (w : Work) (v : Digit) :
    counterStep (w.counted o) v = (workStep o w v).counted o := by
  have hnext : BitVec.ofNat 3 (w.idx + o) + 1#3 = BitVec.ofNat 3 (w.idx + 1 + o) := by
    rw [← BitVec.ofNat_add, Nat.add_right_comm]
  rw [Work.counted, Work.counted, counterStep, ofNat_toFin_eq_rowAt, hnext, workStep_acc, workStep_idx]

theorem counterFold_eq_fold (ds : List Digit) (o : Nat) : counterFold ds o = fold ds o := by
  rw [counterFold_eq_foldl_counterStep, ← workStart_counted, List.foldl_hom (Work.counted o) (counterStep_counted o)]
  rfl

/-- Settles O48: pass by pass the 3-bit counter is `IDX + o` modulo 8. -/
theorem rowCounterMayBeThreeBits : Obligations.RowCounterMayBeThreeBits :=
  ⟨fun _ _ => rfl, counterFold_eq_fold⟩

end Sys2Proof.Machine
end
